-- ==== Sys2Proof/Word.lean ====
section
/-! DEFINITION. The bit-vector widths of the block (00_scope.md R7, R10). Wrapping `+`, `-` and `*` of a bit vector are
the exact operation followed by the wrap to its width, which is what R11 asks of a chain; `sra` is its `>>>`. -/

namespace Sys2Proof

/-- u8: one byte of a block (00_scope.md R10, R13). -/
abbrev Byte := BitVec 8

/-- u16: a command word or the pattern of a 16-bit coefficient (30_encoding.md R80). -/
abbrev Word16 := BitVec 16

/-- The 32-bit chains of temperature and humidity, and the fixed-point result words (00_scope.md R7). -/
abbrev Word32 := BitVec 32

/-- The 64-bit chain of pressure (00_scope.md R7). -/
abbrev Word64 := BitVec 64

/-- The bit pattern of a binary32 (00_scope.md R12). -/
abbrev F32 := BitVec 32

/-- `a >>> k` of 00_scope.md R11: the arithmetic right shift, floor(a / 2^k). -/
abbrev sra {n : Nat} (a : BitVec n) (k : Nat) : BitVec n := a.sshiftRight k

end Sys2Proof
end

