-- ==== Sys2Proof/Syntax.lean ====
section
/-! DEFINITION. The seven commands of spec/opcode_table.json (30_encoding.md R82), one constructor each, with the fields
each command reads. SLP and CFG travel beside the word on their own inputs (R80) and stand in State. -/

namespace Sys2Proof

/-- The pressure unit selector UNIT (30_encoding.md R84, names of R90). `other` holds a selector 8..255, which is legal
and selects Pascals. -/
inductive PressureUnit where
  | pa
  | hpa
  | inHg
  | atm
  | bar
  | torr
  | nm2
  | psi
  | other (selector : BitVec 8)
  deriving DecidableEq, Repr

/-- The commands (30_encoding.md R82). A field a command does not read is ignored (R82), so no constructor holds it. -/
inductive Instr where
  /-- BEGIN, 47_commands.md R211. -/
  | beginSession
  /-- READ_T, 47_commands.md R213; M is `celsius` (30_encoding.md R83). -/
  | readT (celsius : Bool)
  /-- READ_P, 47_commands.md R214. -/
  | readP (unit : PressureUnit)
  /-- READ_H, 47_commands.md R215. -/
  | readH
  /-- READ_ALL, 47_commands.md R216; M is `metric`, which selects Celsius (30_encoding.md R83). -/
  | readAll (metric : Bool) (unit : PressureUnit)
  /-- ALT, 47_commands.md R217. -/
  | alt (metric : Bool)
  /-- DEW, 47_commands.md R218. -/
  | dew (metric : Bool)
  deriving DecidableEq, Repr

/-- A line of assembler text, without its words' spelling (30_encoding.md R90, R91): READ_P and READ_ALL may leave their
unit out. -/
inductive AsmLine where
  | beginSession
  | readT (celsius : Bool)
  | readP (unit : Option PressureUnit)
  | readH
  | readAll (metric : Bool) (unit : Option PressureUnit)
  | alt (metric : Bool)
  | dew (metric : Bool)
  deriving DecidableEq, Repr

end Sys2Proof
end

