-- ==== Sys2Proof/WellFormed.lean ====
section
/-! DEFINITION. The checks on instructions as syntax. The one way to write a command that no word stands for is an
`other` selector that has a name (0..7): 30_encoding.md R84 gives each selector one meaning. -/

namespace Sys2Proof

/-- A selector written `other` is one of 8..255 (30_encoding.md R84). -/
def PressureUnit.wf : PressureUnit → Bool
  | .other selector => decide (8 ≤ selector.toNat)
  | .pa | .hpa | .inHg | .atm | .bar | .torr | .nm2 | .psi => true

/-- A command is well formed when its unit is. -/
def Instr.wf : Instr → Bool
  | .readP unit => unit.wf
  | .readAll _ unit => unit.wf
  | .beginSession | .readT _ | .readH | .alt _ | .dew _ => true

end Sys2Proof
end

