-- ==== Sys2Proof/Decode.lean ====
section
/-! DEFINITION. The decoder of 30_encoding.md R88, total on the 65536 words and rejecting by name (R87), then the encoder
written from the field table R81 and the operation values R82, and the assembler's pseudo-commands (R90, R91). -/

namespace Sys2Proof

/-- Why a word is illegal (30_encoding.md R87). -/
inductive DecodeError where
  /-- RSV, bits 7:5, is not 0 (R85). -/
  | reservedBits
  /-- OP is 0x0 or 0x8 to 0xF (R82). -/
  | reservedOp (op : BitVec 4)
  deriving DecidableEq, Repr

/-- OP, bits 3:0 (30_encoding.md R81). -/
def fieldOp (w : Word16) : BitVec 4 := w.extractLsb' 0 4

/-- M, bit 4 (30_encoding.md R81). -/
def fieldM (w : Word16) : Bool := w.getLsbD 4

/-- RSV, bits 7:5 (30_encoding.md R81). -/
def fieldRsv (w : Word16) : BitVec 3 := w.extractLsb' 5 3

/-- UNIT, bits 15:8 (30_encoding.md R81). -/
def fieldUnit (w : Word16) : BitVec 8 := w.extractLsb' 8 8

/-- The unit a selector names (30_encoding.md R84, R90). -/
def PressureUnit.ofSelector (u : BitVec 8) : PressureUnit :=
  match u.toNat with
  | 0 => .pa
  | 1 => .hpa
  | 2 => .inHg
  | 3 => .atm
  | 4 => .bar
  | 5 => .torr
  | 6 => .nm2
  | 7 => .psi
  | _ => .other u

/-- The decoding procedure of 30_encoding.md R88. -/
def decode (w : Word16) : Except DecodeError Instr :=
  if fieldRsv w ≠ 0 then
    .error .reservedBits
  else
    match (fieldOp w).toNat with
    | 1 => .ok .beginSession
    | 2 => .ok (.readT (fieldM w))
    | 3 => .ok (.readP (.ofSelector (fieldUnit w)))
    | 4 => .ok .readH
    | 5 => .ok (.readAll (fieldM w) (.ofSelector (fieldUnit w)))
    | 6 => .ok (.alt (fieldM w))
    | 7 => .ok (.dew (fieldM w))
    | _ => .error (.reservedOp (fieldOp w))

/-- The selector of a unit (30_encoding.md R84, R90). -/
def PressureUnit.selector : PressureUnit → BitVec 8
  | .pa => 0
  | .hpa => 1
  | .inHg => 2
  | .atm => 3
  | .bar => 4
  | .torr => 5
  | .nm2 => 6
  | .psi => 7
  | .other selector => selector

/-- A command word from its fields, RSV 0 (30_encoding.md R81, R85). -/
def commandWord (op : BitVec 4) (m : Bool) (unit : BitVec 8) : Word16 :=
  unit ++ (0 : BitVec 3) ++ BitVec.ofBool m ++ op

/-- The word of a command; a field the command does not read is assembled as 0 (30_encoding.md R82, R90). -/
def encode : Instr → Word16
  | .beginSession => commandWord 0x1 false 0
  | .readT celsius => commandWord 0x2 celsius 0
  | .readP unit => commandWord 0x3 false unit.selector
  | .readH => commandWord 0x4 false 0
  | .readAll metric unit => commandWord 0x5 metric unit.selector
  | .alt metric => commandWord 0x6 metric 0
  | .dew metric => commandWord 0x7 metric 0

/-- The command a line of assembler text stands for: a unit left out is PA (30_encoding.md R91). -/
def AsmLine.expand : AsmLine → Instr
  | .beginSession => .beginSession
  | .readT celsius => .readT celsius
  | .readP unit => .readP (unit.getD .pa)
  | .readH => .readH
  | .readAll metric unit => .readAll metric (unit.getD .pa)
  | .alt metric => .alt metric
  | .dew metric => .dew metric

/-- The word a line of assembler text stands for (30_encoding.md R90, R91). -/
def assemble (l : AsmLine) : Word16 := encode l.expand

/-- The command word whose low `nbits` bits are those of `w`, every bit above them 0. -/
def tableWord (nbits w : Nat) : Word16 := BitVec.ofNat 16 (w % 2 ^ nbits)

/-- The command the decoder reads from a word given as the opcode table numbers its bits. -/
def decodeTableWord (nbits w : Nat) : Option Instr :=
  match decode (tableWord nbits w) with
  | .ok i => some i
  | .error _ => none

end Sys2Proof
end

