-- ==== Sys2Proof/Config.lean ====
section
/-! DEFINITION. The parameters of the block: the fixed ones of 00_scope.md R7, and the open ones of R8. An open
parameter that is a value stands in State as plain data (H45_EXT, the transport's scripted answers); the constants
here that have no body are the free values: nothing can be proved about what they are. -/

namespace Sys2Proof

/-- The configuration record, the open type Config of 00_scope.md R8 and 10_state.md R42. The block never reads a field
of it and the spec gives it no layout, so it is an image of bytes that nothing here looks into.
DESIGN CHOICE, safe (log 6). -/
structure Cfg where
  image : List Byte
  deriving DecidableEq, Repr

/-- H45_EXT of 00_scope.md R8: how the 12-bit coefficients H4 and H5 are extended to 16 bits (41_calibration.md R107). -/
inductive H45Ext where
  | sign
  | zero
  deriving DecidableEq, Repr

namespace Config

/-- CAL_LEN of 00_scope.md R7: bytes in a calibration block. -/
abbrev calLen : Nat := 32

/-- SMP_LEN of 00_scope.md R7: bytes in a raw sample block. -/
abbrev smpLen : Nat := 8

/-- Free value: what the transport answers to a FetchCal for which State scripts no answer, by draw number; `none` is a
fetch that never returns (00_scope.md R8, R19, 20_memory.md R65; log 3). The step keeps at most the first 32 bytes, so
every answer R65 allows is among its values. -/
opaque freeCalAnswer : Nat → Option (List Byte)

/-- Free value: what the transport answers to a FetchSmp for which State scripts no answer, by draw number; `none` is a
fetch that never returns (00_scope.md R8, R19, 20_memory.md R65; log 3). -/
opaque freeSmpAnswer : Nat → Option (List Byte)

/-- Free value: the logarithm LN64 of 00_scope.md R8 on the patterns of binary64, at every argument but the two at which
92_eei_decisions.md D18 gives it (log 8). -/
opaque freeLn64 : BitVec 64 → BitVec 64

end Config

end Sys2Proof
end

