-- ==== Sys2Proof/Machine/State.lean ====
section
/-! DEFINITION. The state of the block (10_state.md R30), the inputs of a command and the open parameters of
00_scope.md R8 beside it as plain data, the reasons a step can stop, and the state after reset (70_reset_and_hazards.md
R270). -/

namespace Sys2Proof.Machine

/-- SESSION (10_state.md R33). -/
inductive Session where
  | uninitialized
  | ready
  deriving DecidableEq, Repr

/-- The outcomes a command can leave in STATUS.ERR (60_exceptions.md R240). Codes 7 to 15 are never written. -/
inductive Err where
  | ok
  | incompleteCalibration
  | incompleteSample
  | divisionByZero
  | notReady
  | alreadyReady
  | illegalCommand
  deriving DecidableEq, Repr

/-- The calibration space CAL (20_memory.md R60, 10_state.md R34): the offsets that hold a value, each with its byte,
offsets strictly rising. An offset that is not listed holds no value (R34: "After reset it holds no value"; log 10). -/
abbrev Memory := List Host.Cell

/-- RES_T, RES_P and RES_H (10_state.md R38). "No value" is the spec's own state of a field: R38 gives it at reset and
beside NaN32, and R39 makes a read of it a fault: "A model must treat such a read as a fault". -/
structure ResReg where
  /-- The binary32 field. -/
  fl : Option F32
  /-- The fixed-point field: s32 in RES_T, u32 in RES_P and RES_H. -/
  fx : Option Word32
  deriving DecidableEq, Repr

/-- What the transport does at one fetch (00_scope.md R13, 20_memory.md R65). -/
inductive Answer where
  /-- It returns these bytes. -/
  | bytes (list : List Byte)
  /-- It never returns (00_scope.md R19). -/
  | never
  deriving DecidableEq, Repr

/-- One transaction on the transport (00_scope.md R13). -/
inductive Transaction where
  | pushCfg (cfg : Cfg)
  | fetchCal
  | fetchSmp
  deriving DecidableEq, Repr

/-- The transport oracle of 00_scope.md R8 as plain data, no part of the block (log 3). -/
structure Transport where
  /-- The answers of the next FetchCals, the next one first; when none is left the answer is a free value, and
  may never come. -/
  cal : List Answer
  /-- The answers of the next FetchSmps, the next one first; when none is left the answer is a free value, and
  may never come. -/
  smp : List Answer
  /-- How many free answers have been drawn: the counter of `Config.freeCalAnswer` and `Config.freeSmpAnswer`. -/
  draws : Nat
  /-- The transactions performed so far, oldest first. Nothing reads it (log 14). -/
  log : List Transaction
  deriving DecidableEq, Repr

/-- One command as the host presents it: the word, and the two operands beside it (30_encoding.md R80). -/
structure Request where
  word : Word16
  slp : F32
  cfg : Cfg
  deriving DecidableEq, Repr

/-- The state. SESSION, CAL, STATUS.ERR and the result registers are all the block holds (10_state.md R30); STATUS.READY
equals SESSION and the coefficient file is a view of CAL (R35, R37), so neither is stored again (log 11). The fields from
`h45Ext` on are the model's own: an open parameter and the inputs of commands (log 1, 3, 7). -/
structure State where
  /-- SESSION, R33. -/
  session : Session
  /-- CAL, R34. -/
  cal : Memory
  /-- STATUS.ERR, R37. -/
  err : Err
  /-- RES_T, R38. -/
  resT : ResReg
  /-- RES_P, R38. -/
  resP : ResReg
  /-- RES_H, R38. -/
  resH : ResReg
  /-- RES_D, R38. -/
  resD : Option F32
  /-- The open parameter H45_EXT, 00_scope.md R8; no step changes it. -/
  h45Ext : H45Ext
  /-- The SLP input of the command in hand, 30_encoding.md R80. -/
  slp : F32
  /-- The CFG input of the command in hand, 30_encoding.md R80. -/
  cfg : Cfg
  /-- The commands the host will present, the next one first. -/
  queue : List Request
  /-- The transport. -/
  transport : Transport
  deriving DecidableEq, Repr

/-- Why a step stops with a fault. The block itself has no traps (60_exceptions.md R250): its errors are next states. -/
inductive Fault where
  /-- Raised by a fetch whose answer, scripted or free, never comes: the command never ends (00_scope.md R19,
  70_reset_and_hazards.md R278, 93 U5). Safe (log 4). -/
  | transportNeverAnswers
  /-- Raised by a fetch whose scripted answer is longer than its block, which 20_memory.md R65 excludes. Safe (log 5). -/
  | answerTooLong
  /-- Raised by a poll in the Ready state when a byte of CAL holds no value; 10_state.md R34 excludes it, and no run from
  reset gets there. Safe (log 10). -/
  | calNoValue
  /-- Raised by a read of CAL at an offset of 32 or more, which 20_memory.md R60 says does not exist. Safe (log 10). -/
  | noSuchAddress
  /-- Raised by the host's read of a result field that holds no value, and by no step. The spec states it: 10_state.md R39,
  "A model must treat such a read as a fault, not as zero or any other number". Safe. -/
  | readNoValue
  deriving DecidableEq, Repr

/-- Why a step is refused. -/
inductive Refusal where
  /-- Raised by `exec` for an instruction that has no meaning yet; no arm raises it. Safe. -/
  | notModelled (mnemonic : String)
  deriving DecidableEq, Repr

/-- A result register that holds no value (10_state.md R38). -/
def ResReg.noValue : ResReg := { fl := none, fx := none }

/-- The state after reset (70_reset_and_hazards.md R270). The model's own fields: H45_EXT at the spec's default SIGN
(92 D10; log 7), the input lines and the transport empty (DESIGN CHOICE, log 13), nothing presented (R271). -/
def State.reset : State :=
  { session := .uninitialized
    cal := []
    err := .ok
    resT := .noValue
    resP := .noValue
    resH := .noValue
    resD := none
    h45Ext := .sign
    slp := 0
    cfg := { image := [] }
    queue := []
    transport := { cal := [], smp := [], draws := 0, log := [] } }

end Sys2Proof.Machine
end

