-- ==== Sys2Proof/Machine/Flags.lean ====
section
/-! DEFINITION. STATUS (10_state.md R37): the codes of 60_exceptions.md R240 and the word the host reads. STATUS is the
block's only flag register (R40). -/

namespace Sys2Proof.Machine

/-- The code of an outcome (60_exceptions.md R240). -/
def Err.code : Err → BitVec 4
  | .ok => 0
  | .incompleteCalibration => 1
  | .incompleteSample => 2
  | .divisionByZero => 3
  | .notReady => 4
  | .alreadyReady => 5
  | .illegalCommand => 6

/-- STATUS.READY (10_state.md R37): "READY always equals SESSION". -/
def State.readyBit (s : State) : Bool :=
  match s.session with
  | .ready => true
  | .uninitialized => false

/-- STATUS as the host reads it (10_state.md R37): ERR in bits 7:4, READY in bit 0, every other bit 0. -/
def State.status (s : State) : Word16 :=
  (0 : BitVec 8) ++ s.err.code ++ (0 : BitVec 3) ++ BitVec.ofBool s.readyBit

/-- `STATUS.ERR <- e` (00_scope.md R14), the last write of every command (10_state.md R37). -/
def State.setErr (e : Err) (s : State) : State := { s with err := e }

end Sys2Proof.Machine
end

