-- ==== Sys2Proof/Machine/Float.lean ====
section
/-! DEFINITION. The floating-point primitives of 00_scope.md R12, exact on natural numbers.

A finite binary64 is a whole number of units of 2^-1074, the smallest binary64; a finite binary32 is a whole number of
units of 2^-149. `roundUnits` rounds an exact quotient to the nearest number of units the format holds, ties to even.
The signs of zeros and the infinities follow IEEE 754 (log 12). The four exponents are irreducible, so that no unification
writes a power out; the kernel computes with them as it does with any number. -/

namespace Sys2Proof.Machine

/-- A binary64 value: `fin neg k` is k · 2^-1074, negated if `neg`. A NaN's payload is never observable (46_derived.md
R195), so there is one NaN. -/
inductive F64 where
  | nan
  | inf (neg : Bool)
  | fin (neg : Bool) (units : Nat)
  deriving DecidableEq, Repr

/-- NaN32 of 00_scope.md R12: the binary32 quiet NaN 0x7FC00000. -/
def nan32 : F32 := 0x7FC00000

/-- How many binary digits of a `units` number lie below a significand of `prec` digits. -/
def excessBits (prec q : Nat) : Nat := q.log2 - (prec - 1)

/-- The multiple of `unit` nearest to num / den, as a count of units; a tie goes to the even count. -/
def nearestEven (num den : Nat) : Nat :=
  let q := num / den
  let r := num % den
  if den < 2 * r ∨ (2 * r = den ∧ q % 2 = 1) then q + 1 else q

/-- The exact quotient num / den, in units of a format's smallest number, rounded to the nearest number of units with at
most `prec` significant binary digits, ties to even (00_scope.md R12); no bound on the exponent. -/
def roundUnits (prec num den : Nat) : Nat :=
  let sh := excessBits prec (num / den)
  nearestEven num (den * 2 ^ sh) * 2 ^ sh

/-- 1 is 2^1074 units of binary64. -/
@[irreducible] def unitExp64 : Nat := 1074

/-- Binary64 overflows at 2^1024, which is 2^2098 units. -/
@[irreducible] def topExp64 : Nat := 2098

/-- Binary32 overflows at 2^128, which is 2^277 units of 2^-149. -/
@[irreducible] def topExp32 : Nat := 277

/-- 2^-149, the smallest binary32, is 2^925 units of binary64. -/
@[irreducible] def unitExp32 : Nat := 925

/-- The units of binary64 in 1. -/
def one64 : Nat := 2 ^ unitExp64

/-- The units at which binary64 overflows. -/
def top64 : Nat := 2 ^ topExp64

/-- The units of binary32 at which binary32 overflows. -/
def top32 : Nat := 2 ^ topExp32

/-- The units of binary64 in one unit of binary32. -/
def unit32 : Nat := 2 ^ unitExp32

/-- F64 of the exact real (num / den) · 2^-1074, negated if `neg` (00_scope.md R12: "with overflow to ±∞"). -/
def F64.round (neg : Bool) (num den : Nat) : F64 :=
  let k := roundUnits 53 num den
  if k < top64 then .fin neg k else .inf neg

/-- F64 of num / den (00_scope.md R12). -/
def F64.ofRat (neg : Bool) (num den : Nat) : F64 := F64.round neg (num * one64) den

/-- F64 of a quotient of an integer by a natural number. -/
def F64.ofIntDiv (i : Int) (den : Nat) : F64 := F64.ofRat (decide (i < 0)) i.natAbs den

/-- F64 of a natural number. -/
def F64.ofNat (n : Nat) : F64 := F64.ofRat false n 1

def F64.neg : F64 → F64
  | .nan => .nan
  | .inf n => .inf (!n)
  | .fin n k => .fin (!n) k

/-- A finite value as a signed count of units. -/
def signedUnits (neg : Bool) (k : Nat) : Int := if neg then -(k : Int) else k

/-- F64(x + y). An exact sum of zero is -0 only when both operands are negative zeros (log 12). -/
def F64.add : F64 → F64 → F64
  | .nan, _ | _, .nan => .nan
  | .inf a, .inf b => if a = b then .inf a else .nan
  | .inf a, .fin _ _ => .inf a
  | .fin _ _, .inf b => .inf b
  | .fin a j, .fin b k =>
    let sum := signedUnits a j + signedUnits b k
    if sum = 0 then .fin (a && b) 0 else F64.round (decide (sum < 0)) sum.natAbs 1

/-- F64(x − y). -/
def F64.sub (x y : F64) : F64 := x.add y.neg

/-- F64(x × y). -/
def F64.mul : F64 → F64 → F64
  | .nan, _ | _, .nan => .nan
  | .inf a, .inf b => .inf (a ^^ b)
  | .inf a, .fin b k => if k = 0 then .nan else .inf (a ^^ b)
  | .fin a j, .inf b => if j = 0 then .nan else .inf (a ^^ b)
  | .fin a j, .fin b k => F64.round (a ^^ b) (j * k) one64

/-- F64(x / y). -/
def F64.div : F64 → F64 → F64
  | .nan, _ | _, .nan => .nan
  | .inf _, .inf _ => .nan
  | .inf a, .fin b _ => .inf (a ^^ b)
  | .fin a _, .inf b => .fin (a ^^ b) 0
  | .fin a j, .fin b k =>
    if k = 0 then (if j = 0 then .nan else .inf (a ^^ b)) else F64.round (a ^^ b) (j * one64) k

/-- The exponent field and fraction of `units` in a format of `prec` digits, as one number: a number below 2^prec units is
its own pattern, and each digit more counts the exponent up by one. -/
def packUnits (prec units : Nat) : Nat :=
  let sh := excessBits prec units
  sh * 2 ^ (prec - 1) + units / 2 ^ sh

/-- The units an exponent field and a fraction of prec - 1 bits stand for. -/
def unpackUnits (prec exponent fraction : Nat) : Nat :=
  if exponent = 0 then fraction else (2 ^ (prec - 1) + fraction) * 2 ^ (exponent - 1)

/-- The pattern of a binary64, for the logarithm's argument; any NaN is the quiet one. -/
def F64.toBits : F64 → BitVec 64
  | .nan => 0x7FF8000000000000
  | .inf neg => BitVec.ofBool neg ++ 0x7FF0000000000000#63
  | .fin neg k => BitVec.ofBool neg ++ BitVec.ofNat 63 (packUnits 53 k)

/-- The value of a binary64 pattern. -/
def F64.ofBits (b : BitVec 64) : F64 :=
  let neg := b.msb
  let exponent := (b.extractLsb' 52 11).toNat
  let fraction := (b.extractLsb' 0 52).toNat
  if exponent = 2047 then (if fraction = 0 then .inf neg else .nan)
  else .fin neg (unpackUnits 53 exponent fraction)

/-- A binary32 enters binary64 exactly (92_eei_decisions.md D7). -/
def F64.ofF32 (b : F32) : F64 :=
  let neg := b.msb
  let exponent := (b.extractLsb' 23 8).toNat
  let fraction := (b.extractLsb' 0 23).toNat
  if exponent = 255 then (if fraction = 0 then .inf neg else .nan)
  else .fin neg (unpackUnits 24 exponent fraction * unit32)

/-- The binary32 of a sign and a number of units of 2^-149, with overflow to ±∞ (00_scope.md R12). -/
def packF32 (neg : Bool) (units : Nat) : F32 :=
  BitVec.ofBool neg ++ BitVec.ofNat 31 (if units < top32 then packUnits 24 units else 0x7F800000)

/-- F32 of a binary64 (00_scope.md R12); F32 of any NaN is NaN32 (46_derived.md R195). -/
def F64.toF32 : F64 → F32
  | .nan => nan32
  | .inf neg => packF32 neg top32
  | .fin neg k => packF32 neg (roundUnits 24 k unit32)

/-- isNaN of 00_scope.md R12 and 46_derived.md R194: the IEEE predicate, on a binary32. -/
def isNaN (b : F32) : Bool := b.extractLsb' 23 8 == 255#8 && b.extractLsb' 0 23 != 0#23

/-- LN64 (00_scope.md R8). 92_eei_decisions.md D18 gives it at 0 and at 1; everywhere else it is a free value (log 8). -/
def ln64 (x : F64) : F64 :=
  match x with
  | .fin _ 0 => .inf true
  | x => if x = F64.ofNat 1 then .fin false 0 else F64.ofBits (Config.freeLn64 x.toBits)

end Sys2Proof.Machine
end

