-- ==== Sys2Proof/Machine/Operands.lean ====
section
/-! DEFINITION. What a command computes with: the 18 coefficients decoded from CAL (41_calibration.md), and the three raw
words decoded from a sample block (42_sample.md). The decoders are total on complete blocks (R109, R125) and every byte
pattern is accepted (R108, R124). -/

namespace Sys2Proof.Machine

/-- A complete calibration block, CAL[0..31] (41_calibration.md R100). -/
abbrev CalBlock := Vector Byte 32

/-- A complete sample block, SMP[0..7] (42_sample.md R120). -/
abbrev SmpBlock := Vector Byte 8

/-- The coefficient file (10_state.md R35), each register its own pattern; whether a coefficient is signed is said where
a chain extends it. H4 and H5 are already extended from 12 bits. -/
structure Coeffs where
  t1 : BitVec 16
  t2 : BitVec 16
  t3 : BitVec 16
  p1 : BitVec 16
  p2 : BitVec 16
  p3 : BitVec 16
  p4 : BitVec 16
  p5 : BitVec 16
  p6 : BitVec 16
  p7 : BitVec 16
  p8 : BitVec 16
  p9 : BitVec 16
  h1 : BitVec 8
  h2 : BitVec 16
  h3 : BitVec 8
  h4 : BitVec 16
  h5 : BitVec 16
  h6 : BitVec 8
  deriving DecidableEq, Repr

/-- The little-endian pattern of U16(i) and S16(i): CAL[i+1] ++ CAL[i] (41_calibration.md R102, 20_memory.md R63). -/
def le16 (low high : Byte) : BitVec 16 := high ++ low

/-- The 12-bit pattern of H4 or H5 from its high byte and the nibble below it (41_calibration.md R107). -/
def nibble12 (high : Byte) (low : BitVec 4) : BitVec 12 := high ++ low

/-- The extension of a 12-bit pattern to 16 bits by H45_EXT (41_calibration.md R107). -/
def extend12 (ext : H45Ext) (h : BitVec 12) : BitVec 16 :=
  match ext with
  | .sign => h.signExtend 16
  | .zero => h.setWidth 16

/-- The calibration decoder (41_calibration.md R101 to R107). -/
def decodeCal (ext : H45Ext) (cal : CalBlock) : Coeffs :=
  { t1 := le16 cal[0] cal[1]
    t2 := le16 cal[2] cal[3]
    t3 := le16 cal[4] cal[5]
    p1 := le16 cal[6] cal[7]
    p2 := le16 cal[8] cal[9]
    p3 := le16 cal[10] cal[11]
    p4 := le16 cal[12] cal[13]
    p5 := le16 cal[14] cal[15]
    p6 := le16 cal[16] cal[17]
    p7 := le16 cal[18] cal[19]
    p8 := le16 cal[20] cal[21]
    p9 := le16 cal[22] cal[23]
    h1 := cal[24]
    h2 := le16 cal[25] cal[26]
    h3 := cal[27]
    h4 := extend12 ext (nibble12 cal[28] (cal[29].extractLsb' 0 4))
    h5 := extend12 ext (nibble12 cal[30] (cal[29].extractLsb' 4 4))
    h6 := cal[31] }

/-- The raw words of one sample (42_sample.md R120); they exist only inside a poll (10_state.md R36). -/
structure RawSample where
  rawP : BitVec 20
  rawT : BitVec 20
  rawH : BitVec 16
  deriving DecidableEq, Repr

/-- A 20-bit big-endian field: two bytes and the high nibble of a third (42_sample.md R121, R122). -/
def be20 (msb lsb xlsb : Byte) : BitVec 20 := msb ++ lsb ++ xlsb.extractLsb' 4 4

/-- The sample decoder (42_sample.md R121 to R123). -/
def decodeSmp (smp : SmpBlock) : RawSample :=
  { rawP := be20 smp[0] smp[1] smp[2]
    rawT := be20 smp[3] smp[4] smp[5]
    rawH := smp[6] ++ smp[7] }

end Sys2Proof.Machine
end

