-- ==== Sys2Proof/Machine/Compensate.lean ====
section
/-! DEFINITION. The compensators: COMP_T and TEMP_OUT (43_temperature.md), COMP_P and PRES_OUT (44_pressure.md), COMP_H and
HUM_OUT (45_humidity.md), ALTITUDE and DEWPOINT (46_derived.md). The integer chains are bit-vector arithmetic of the
chain's width: a `u` operand is widened with zeros and an `s` operand with its sign, which keeps its value. -/

namespace Sys2Proof.Machine

/-- The outputs of COMP_T (43_temperature.md R130). -/
structure TempFixed where
  tFine : Word32
  t100 : Word32
  deriving DecidableEq, Repr

/-- COMP_T, the s32 chain of 43_temperature.md R130. -/
def compT (rawT : BitVec 20) (t1 t2 t3 : BitVec 16) : TempFixed :=
  let raw : Word32 := rawT.setWidth 32
  let c1 : Word32 := t1.setWidth 32
  let c2 : Word32 := t2.signExtend 32
  let c3 : Word32 := t3.signExtend 32
  let a := sra raw 3 - (c1 <<< 1)
  let var1 := sra (a * c2) 11
  let b := sra raw 4 - c1
  let var2 := sra (sra (b * b) 12 * c3) 14
  let tFine := var1 + var2
  { tFine := tFine, t100 := sra (tFine * 5 + 128) 8 }

/-- The back conversion ×9/5+32, each operation in binary64 (43_temperature.md R131, 46_derived.md R193). -/
def toFahrenheit (c : F64) : F64 :=
  ((c.mul (F64.ofNat 9)).div (F64.ofNat 5)).add (F64.ofNat 32)

/-- TEMP_OUT (43_temperature.md R131). -/
def tempOut (t100 : Word32) (celsius : Bool) : F32 :=
  let c := F64.ofIntDiv t100.toInt 100
  if celsius then c.toF32 else (toFahrenheit c).toF32

/-- The denominator D of COMP_P, line six of 44_pressure.md R150: it depends on t_fine, P1, P2 and P3 only (R151). -/
def pressureDenominator (tFine : Word32) (p1 p2 p3 : BitVec 16) : Word64 :=
  let v1 := tFine.signExtend 64 - 128000
  let v1 := sra (v1 * v1 * p3.signExtend 64) 8 + ((v1 * p2.signExtend 64) <<< 12)
  sra ((0x800000000000 + v1) * p1.setWidth 64) 33

/-- The numerator's offset v2 of COMP_P, lines two to four of 44_pressure.md R150. -/
def pressureOffset (tFine : Word32) (p4 p5 p6 : BitVec 16) : Word64 :=
  let v1 := tFine.signExtend 64 - 128000
  let v2 := v1 * v1 * p6.signExtend 64
  let v2 := v2 + ((v1 * p5.signExtend 64) <<< 17)
  v2 + (p4.signExtend 64 <<< 35)

/-- COMP_P, the s64 chain of 44_pressure.md R150; `none` is DivisionByZero, exactly when D = 0 (R151). -/
def compP (rawP : BitVec 20) (tFine : Word32) (c : Coeffs) : Option Word32 :=
  let d := pressureDenominator tFine c.p1 c.p2 c.p3
  if d = 0 then
    none
  else
    let v2 := pressureOffset tFine c.p4 c.p5 c.p6
    let p := 1048576 - rawP.setWidth 64
    let p := (((p <<< 31) - v2) * 3125).sdiv d
    let w1 := sra (c.p9.signExtend 64 * sra p 13 * sra p 13) 25
    let w2 := sra (c.p8.signExtend 64 * p) 19
    let p := sra (p + w1 + w2) 8 + (c.p7.signExtend 64 <<< 4)
    some (p.setWidth 32)

/-- F64 of a decimal constant (00_scope.md R12). -/
def dec (digits places : Nat) : F64 := F64.ofRat false digits (10 ^ places)

/-- Pascals per inch of mercury, the divisor of 44_pressure.md R152 and of 46_derived.md R190. -/
def paPerInHg : F64 := dec 33863752577878 10

/-- PRES_OUT (44_pressure.md R152). -/
def presOut (pq8 : Word32) (unit : PressureUnit) : F32 :=
  let pa := F64.ofRat false pq8.toNat 256
  match unit with
  | .pa => pa.toF32
  | .hpa => (pa.div (F64.ofNat 100)).toF32
  | .inHg => (pa.div paPerInHg).toF32
  | .atm => (pa.div (dec 10132499766353 8)).toF32
  | .bar => (pa.div (F64.ofNat 100000)).toF32
  | .torr => (pa.div (dec 13332236534674 11)).toF32
  | .nm2 => pa.toF32
  | .psi => (pa.div (dec 6894744825494 9)).toF32
  | .other _ => pa.toF32

/-- `clamp(x, lo, hi)` of 00_scope.md R11, on signed words. -/
def clamp (x lo hi : Word32) : Word32 :=
  if x.slt lo then lo else if hi.slt x then hi else x

/-- The value of COMP_H before its clamp (45_humidity.md R170). -/
def humidityUnclamped (rawH : BitVec 16) (tFine : Word32) (c : Coeffs) : Word32 :=
  let v := tFine - 76800
  let x := sra ((((rawH.setWidth 32 : Word32) <<< 14) - (c.h4.signExtend 32 <<< 20))
    - c.h5.signExtend 32 * v + 16384) 15
  let y1 := sra (v * c.h6.signExtend 32) 10
  let y2 := sra (v * c.h3.setWidth 32) 11 + 32768
  let y := sra (y1 * y2) 10 + 2097152
  let y := sra (y * c.h2.signExtend 32 + 8192) 14
  let v := x * y
  v - sra (sra (sra v 15 * sra v 15) 7 * c.h1.setWidth 32) 4

/-- COMP_H, the s32 chain of 45_humidity.md R170, clamped by R171. -/
def compH (rawH : BitVec 16) (tFine : Word32) (c : Coeffs) : Word32 :=
  sra (clamp (humidityUnclamped rawH tFine c) 0 419430400) 12

/-- HUM_OUT (45_humidity.md R172). -/
def humOut (hq10 : Word32) : F32 := (F64.ofRat false hq10.toNat 1024).toF32

/-- The un-scaled altitude of 46_derived.md R190, kept as it is when metric is 0 (R191). -/
def altitudeUnscaled (p slp : F32) : F64 :=
  ((F64.ofNat 1000).mul ((F64.ofF32 slp).sub (F64.ofF32 p))).div paPerInHg

/-- ALTITUDE (46_derived.md R190). -/
def altitude (p slp : F32) (metric : Bool) : F32 :=
  if isNaN p || isNaN slp then
    nan32
  else if metric then
    ((altitudeUnscaled p slp).mul (dec 3048 4)).toF32
  else
    (altitudeUnscaled p slp).toF32

/-- DEW_C from the logarithm l on (46_derived.md R192). -/
def dewFromLn (l t : F64) : F64 :=
  let r := ((dec 17625 3).mul t).div ((dec 24304 2).add t)
  let g := l.add r
  ((dec 24304 2).mul g).div ((dec 17625 3).sub g)

/-- DEW_C (46_derived.md R192). -/
def dewC (t h : F64) : F64 := dewFromLn (ln64 (h.div (F64.ofNat 100))) t

/-- (t − 32) × 5 / 9, each operation in binary64 (46_derived.md R193). -/
def toCelsius (t : F64) : F64 :=
  ((t.sub (F64.ofNat 32)).mul (F64.ofNat 5)).div (F64.ofNat 9)

/-- DEWPOINT (46_derived.md R193). -/
def dewPoint (t h : F32) (metric : Bool) : F32 :=
  if isNaN t || isNaN h then
    nan32
  else if metric then
    (dewC (F64.ofF32 t) (F64.ofF32 h)).toF32
  else
    (toFahrenheit (dewC (toCelsius (F64.ofF32 t)) (F64.ofF32 h))).toF32

end Sys2Proof.Machine
end

