-- ==== Sys2Proof/Machine/Ops.lean ====
section
/-! DEFINITION. The operations the commands share: bytes of CAL, transport transactions, raising an error (the block's
whole exception mechanism, 60_exceptions.md R250), the poll (47_commands.md R212), presenting a command, and the host's
reads of the result registers. -/

namespace Sys2Proof.Machine

/-! ## CAL (20_memory.md R60) -/

/-- The byte at offset `a`, `none` where it holds no value (10_state.md R34). -/
def Memory.lookup (a : Nat) : Memory → Option Byte
  | [] => none
  | (c, b) :: rest => if a = c then some b else Memory.lookup a rest

/-- `CAL[a] <- b`, keeping the offsets strictly rising. -/
def Memory.write (a : Nat) (b : Byte) : Memory → Memory
  | [] => [(a, b)]
  | (c, d) :: rest =>
    if a < c then (a, b) :: (c, d) :: rest
    else if a = c then (a, b) :: rest
    else (c, d) :: Memory.write a b rest

/-- The bytes of a list written at `a`, `a + 1`, … (47_commands.md R211: "for i in 0..31: CAL[i] <- bytes[i]"). -/
def Memory.writeRun (a : Nat) : List Byte → Memory → Memory
  | [], m => m
  | b :: bs, m => Memory.writeRun (a + 1) bs (m.write a b)

/-- The canonical form: offsets strictly rising, all below 32. An unlisted offset holds no value, so no entry can equal
what an unlisted offset reads as. -/
abbrev Memory.wf (m : Memory) : Prop :=
  m.Pairwise (fun x y => x.1 < y.1) ∧ ∀ c ∈ m, c.1 < Config.calLen

/-- `CAL[a]` of 00_scope.md R13. Offsets are 0 to 31 (20_memory.md R60); a byte that holds no value cannot be read. -/
def calRead (m : Memory) (a : Nat) : Except Fault Byte :=
  if a < Config.calLen then
    match m.lookup a with
    | some b => .ok b
    | none => .error .calNoValue
  else
    .error .noSuchAddress

/-- The first `n` bytes of CAL. -/
def calReadRun (m : Memory) : (n : Nat) → Except Fault (Vector Byte n)
  | 0 => .ok #v[]
  | n + 1 =>
    match calReadRun m n with
    | .error f => .error f
    | .ok front =>
      match calRead m n with
      | .error f => .error f
      | .ok b => .ok (front.push b)

/-- The whole calibration block, which the coefficient decoder reads (41_calibration.md R100). -/
def calBlock (m : Memory) : Except Fault CalBlock := calReadRun m 32

/-! ## The transport (00_scope.md R13, 20_memory.md R65) -/

/-- A block is complete when the count of bytes equals its length; an incomplete block's bytes are discarded
(20_memory.md R65). -/
def completeBlock (n : Nat) (bytes : List Byte) : Option (Vector Byte n) :=
  if h : bytes.length = n then some ⟨bytes.toArray, by simpa using h⟩ else none

/-- PushCfg(c): nothing comes back (20_memory.md R68). -/
def Transport.pushCfg (c : Cfg) (t : Transport) : Transport :=
  { t with log := t.log ++ [.pushCfg c] }

/-- A free answer for a block of `n` bytes: one that never comes, or at most `n` bytes (00_scope.md R19, 20_memory.md R65;
log 3). -/
def Answer.free (n : Nat) : Option (List Byte) → Answer
  | none => .never
  | some list => .bytes (list.take n)

/-- What a fetch of a block of `n` bytes makes of its answer (00_scope.md R13, R19). -/
def Answer.receive (n : Nat) : Answer → Except Fault (List Byte)
  | .never => .error .transportNeverAnswers
  | .bytes list => if list.length ≤ n then .ok list else .error .answerTooLong

/-- The transport's answer to the next FetchCal: the scripted one, or a free one where the script is empty. -/
def Transport.calAnswer (t : Transport) : Answer := t.cal.headD (.free Config.calLen (Config.freeCalAnswer t.draws))

/-- The transport's answer to the next FetchSmp. -/
def Transport.smpAnswer (t : Transport) : Answer := t.smp.headD (.free Config.smpLen (Config.freeSmpAnswer t.draws))

/-- The count of free answers after one more answer: an empty script draws one. -/
def countDraw (draws : Nat) : List Answer → Nat
  | [] => draws + 1
  | _ :: _ => draws

/-- FetchCal(): the bytes the transport returns, 0 to 32 of them (00_scope.md R13); its answer is used up. -/
def Transport.fetchCal (t : Transport) : Except Fault (List Byte × Transport) :=
  match t.calAnswer.receive Config.calLen with
  | .error f => .error f
  | .ok list =>
    .ok (list, { t with cal := t.cal.tail, draws := countDraw t.draws t.cal, log := t.log ++ [.fetchCal] })

/-- FetchSmp(): the bytes the transport returns, 0 to 8 of them (00_scope.md R13); its answer is used up. -/
def Transport.fetchSmp (t : Transport) : Except Fault (List Byte × Transport) :=
  match t.smpAnswer.receive Config.smpLen with
  | .error f => .error f
  | .ok list =>
    .ok (list, { t with smp := t.smp.tail, draws := countDraw t.draws t.smp, log := t.log ++ [.fetchSmp] })

/-! ## Outputs and errors -/

/-- One output of a poll: its binary32 and its fixed-point value or no value (47_commands.md R212). -/
structure Output where
  fl : F32
  fx : Option Word32
  deriving DecidableEq, Repr

/-- A failed output: NaN32, and no value beside it (10_state.md R38). -/
def Output.failed : Output := { fl := nan32, fx := none }

/-- The result register an output leaves (10_state.md R38). -/
def Output.toReg (o : Output) : ResReg := { fl := some o.fl, fx := o.fx }

/-- `raise E` where the command has no result to set to NaN32 (00_scope.md R14): STATUS.ERR takes the code and the
command ends. There is no saved state, no mode and no handler (60_exceptions.md R250). -/
def State.raise (e : Err) (s : State) : State := s.setErr e

/-! ## The poll (47_commands.md R212) -/

/-- The outputs a command asks a poll for. -/
structure Want where
  t : Bool := false
  p : Bool := false
  h : Bool := false
  deriving DecidableEq, Repr

/-- The record a poll returns. An output that is not wanted is not computed; its field holds `Output.failed` and no
command reads it. -/
structure Reading where
  err : Err
  t : Output
  p : Output
  h : Output
  deriving DecidableEq, Repr

/-- A poll that ends before any compensation (47_commands.md R212): every output is NaN32 and no value. -/
def Reading.failed (e : Err) : Reading :=
  { err := e, t := .failed, p := .failed, h := .failed }

/-- The temperature output (47_commands.md R212); its fx is T100 whatever the unit flag (10_state.md R38). -/
def Output.temperature (t100 : Word32) (celsius : Bool) : Output := { fl := tempOut t100 celsius, fx := some t100 }

/-- The pressure output (47_commands.md R212). -/
def Output.pressure (unit : PressureUnit) (pq8 : Word32) : Output := { fl := presOut pq8 unit, fx := some pq8 }

/-- The humidity output (47_commands.md R212). -/
def Output.humidity (hq10 : Word32) : Output := { fl := humOut hq10, fx := some hq10 }

/-- The compensation of one complete sample: temperature always and first, then the wanted outputs; DivisionByZero is
reported only when pressure is wanted (47_commands.md R212). -/
def compensate (celsius : Bool) (unit : PressureUnit) (want : Want) (c : Coeffs) (raw : RawSample) : Reading :=
  let f := compT raw.rawT c.t1 c.t2 c.t3
  let pressure := if want.p then (compP raw.rawP f.tFine c).map (Output.pressure unit) else none
  { err := if want.p && pressure.isNone then .divisionByZero else .ok
    t := if want.t then .temperature f.t100 celsius else .failed
    p := pressure.getD .failed
    h := if want.h then .humidity (compH raw.rawH f.tFine c) else .failed }

/-- POLL (47_commands.md R212): the reading and the transport after it. A poll before BEGIN performs no transaction. -/
def poll (celsius : Bool) (unit : PressureUnit) (want : Want) (s : State) : Except Fault (Reading × Transport) :=
  match s.session with
  | .uninitialized => .ok (.failed .notReady, s.transport)
  | .ready =>
    match s.transport.fetchSmp with
    | .error f => .error f
    | .ok (bytes, t) =>
      match completeBlock Config.smpLen bytes with
      | none => .ok (.failed .incompleteSample, t)
      | some smp =>
        match calBlock s.cal with
        | .error f => .error f
        | .ok cal => .ok (compensate celsius unit want (decodeCal s.h45Ext cal) (decodeSmp smp), t)

/-- A poll, the result registers its command writes, and STATUS.ERR last (10_state.md R37). -/
def runPoll (celsius : Bool) (unit : PressureUnit) (want : Want) (writeResults : Reading → State → State) (s : State) :
    Host.Outcome State Fault Refusal :=
  match poll celsius unit want s with
  | .error f => .fault f
  | .ok (o, t) => .next ((writeResults o { s with transport := t }).setErr o.err)

/-! ## The host's side (30_encoding.md R80, 10_state.md R38, R39) -/

/-- The next command's operands on their inputs, and the command taken off the queue. -/
def State.present (r : Request) (rest : List Request) (s : State) : State :=
  { s with slp := r.slp, cfg := r.cfg, queue := rest }

/-- The command the host presents from a word, with the operands that stand on the inputs. -/
def State.requestOf (s : State) (w : Word16) : Request := { word := w, slp := s.slp, cfg := s.cfg }

/-- An illegal word (47_commands.md R219): only STATUS.ERR is written, no transaction is performed. -/
def illegalCommand (s : State) : State := s.raise .illegalCommand

/-- The host's read of a field (10_state.md R38, R39). Of a field that holds no value, R39: "A model must treat such a read
as a fault, not as zero or any other number". -/
def readField {α : Type} : Option α → Except Fault α
  | some v => .ok v
  | none => .error .readNoValue

/-- The host's read of RES_T.fl (10_state.md R38). -/
def State.readTempFl (s : State) : Except Fault F32 := readField s.resT.fl

/-- The host's read of RES_T.fx (10_state.md R38). -/
def State.readTempFx (s : State) : Except Fault Word32 := readField s.resT.fx

/-- The host's read of RES_P.fl (10_state.md R38). -/
def State.readPresFl (s : State) : Except Fault F32 := readField s.resP.fl

/-- The host's read of RES_P.fx (10_state.md R38). -/
def State.readPresFx (s : State) : Except Fault Word32 := readField s.resP.fx

/-- The host's read of RES_H.fl (10_state.md R38). -/
def State.readHumFl (s : State) : Except Fault F32 := readField s.resH.fl

/-- The host's read of RES_H.fx (10_state.md R38). -/
def State.readHumFx (s : State) : Except Fault Word32 := readField s.resH.fx

/-- The host's read of RES_D (10_state.md R38). -/
def State.readDerived (s : State) : Except Fault F32 := readField s.resD

end Sys2Proof.Machine
end

