-- ==== Sys2Proof/Machine/Derived.lean ====
section
/-! DEFINITION. The derived commands (47_commands.md R217, R218). They write RES_D and no other result register. -/

namespace Sys2Proof.Machine

/-- ALT (47_commands.md R217): a poll of the pressure in Pascals, then ALTITUDE with the SLP input. -/
def execAlt (metric : Bool) (s : State) : Host.Outcome State Fault Refusal :=
  runPoll true .pa { p := true } (fun o s => { s with resD := some (altitude o.p.fl s.slp metric) }) s

/-- DEW (47_commands.md R218): a poll of temperature and humidity, then DEWPOINT. -/
def execDew (metric : Bool) (s : State) : Host.Outcome State Fault Refusal :=
  runPoll metric .pa { t := true, h := true } (fun o s => { s with resD := some (dewPoint o.t.fl o.h.fl metric) }) s

end Sys2Proof.Machine
end

