-- ==== Sys2Proof/Machine/Read.lean ====
section
/-! DEFINITION. The read commands (47_commands.md R213 to R216). Each is one poll and the registers its rule names. -/

namespace Sys2Proof.Machine

/-- READ_T (47_commands.md R213). -/
def execReadT (celsius : Bool) (s : State) : Host.Outcome State Fault Refusal :=
  runPoll celsius .pa { t := true } (fun o s => { s with resT := o.t.toReg }) s

/-- READ_P (47_commands.md R214). -/
def execReadP (unit : PressureUnit) (s : State) : Host.Outcome State Fault Refusal :=
  runPoll true unit { p := true } (fun o s => { s with resP := o.p.toReg }) s

/-- READ_H (47_commands.md R215). -/
def execReadH (s : State) : Host.Outcome State Fault Refusal :=
  runPoll true .pa { h := true } (fun o s => { s with resH := o.h.toReg }) s

/-- READ_ALL (47_commands.md R216): three outputs of one sample. -/
def execReadAll (metric : Bool) (unit : PressureUnit) (s : State) : Host.Outcome State Fault Refusal :=
  runPoll metric unit { t := true, p := true, h := true }
    (fun o s => { s with resT := o.t.toReg, resP := o.p.toReg, resH := o.h.toReg }) s

end Sys2Proof.Machine
end

