-- ==== Sys2Proof/Machine/Session.lean ====
section
/-! DEFINITION. BEGIN (47_commands.md R211). -/

namespace Sys2Proof.Machine

/-- BEGIN once its fetch has returned (47_commands.md R211): a complete block fills CAL and makes the session Ready in one
step; an incomplete one raises IncompleteCalibration and leaves CAL and SESSION as they were. -/
def loadCalibration (bytes : List Byte) (s : State) : State :=
  match completeBlock Config.calLen bytes with
  | none => s.raise .incompleteCalibration
  | some block =>
    { s with cal := s.cal.writeRun 0 block.toList, session := .ready, err := .ok }

/-- BEGIN (47_commands.md R211): PushCfg, then FetchCal (20_memory.md R72); AlreadyReady without a transaction when the
session is Ready. -/
def execBegin (s : State) : Host.Outcome State Fault Refusal :=
  match s.session with
  | .ready => .next (s.raise .alreadyReady)
  | .uninitialized =>
    match (s.transport.pushCfg s.cfg).fetchCal with
    | .error f => .fault f
    | .ok (bytes, t) => .next (loadCalibration bytes { s with transport := t })

end Sys2Proof.Machine
end

