-- ==== Sys2Proof/Machine/Dispatch.lean ====
section
/-! DEFINITION. One arm per command (47_commands.md R210). -/

namespace Sys2Proof.Machine

def exec (i : Instr) (s : State) : Host.Outcome State Fault Refusal :=
  match i with
  | .beginSession => Sys2Proof.Machine.execBegin s
  | .readT celsius => Sys2Proof.Machine.execReadT celsius s
  | .readP unit => Sys2Proof.Machine.execReadP unit s
  | .readH => Sys2Proof.Machine.execReadH s
  | .readAll metric unit => Sys2Proof.Machine.execReadAll metric unit s
  | .alt metric => Sys2Proof.Machine.execAlt metric s
  | .dew metric => Sys2Proof.Machine.execDew metric s

end Sys2Proof.Machine
end

