-- ==== Sys2Proof/Machine/Step.lean ====
section
/-! DEFINITION. One step (00_scope.md R18, 47_commands.md R210): the next command the host presents is decoded and
performed. The block has no program counter and fetches nothing (10_state.md R31). -/

namespace Sys2Proof.Machine

/-- One step. With no command presented the block waits and nothing changes (70_reset_and_hazards.md R271; log 2). -/
def step (s : State) : Host.Outcome State Fault Refusal :=
  match s.queue with
  | [] => .next s
  | r :: rest =>
    match decode r.word with
    | .ok i => exec i (s.present r rest)
    | .error _ => .next (illegalCommand (s.present r rest))

/-- The state in which the host presents the word `w` next, before the commands already waiting, with the operands that
stand on the SLP and CFG inputs (log 2). -/
def State.withFetchWord (s : State) (nbits w : Nat) : State :=
  { s with queue := s.requestOf (tableWord nbits w) :: s.queue }

end Sys2Proof.Machine
end

