-- ==== Sys2Proof/Safety.lean ====
section
/-! DEFINITION. What the claims call a good state and a good run: the invariant of the block's state, the answers a fetch
can come back with, and the sample a poll works on. -/

namespace Sys2Proof.Machine

/-- An answer 20_memory.md R65 allows for a block of `n` bytes, and that returns (00_scope.md R19). -/
def Answer.Arrives (n : Nat) : Answer → Prop
  | .bytes list => list.length ≤ n
  | .never => False

/-- The answer to the next FetchCal arrives, be it scripted or free: no answer is assumed to come (00_scope.md R19). -/
def Transport.CalArrives (t : Transport) : Prop := t.calAnswer.Arrives Config.calLen

/-- The answer to the next FetchSmp arrives, be it scripted or free. -/
def Transport.SmpArrives (t : Transport) : Prop := t.smpAnswer.Arrives Config.smpLen

/-- The two fields of a result register belong together (10_state.md R38): fx holds no value exactly when fl holds none or
NaN32, and a NaN in fl is NaN32 (46_derived.md R195). -/
def ResReg.Coherent (r : ResReg) : Prop :=
  (r.fx = none ↔ r.fl = none ∨ r.fl = some nan32) ∧ ∀ v, r.fl = some v → isNaN v = true → v = nan32

/-- What holds of the block's state from reset on. -/
structure State.Inv (s : State) : Prop where
  /-- CAL keeps its canonical form. -/
  calWf : Memory.wf s.cal
  /-- "CAL holds a value exactly when SESSION = Ready" (10_state.md R34). -/
  calWhenReady : s.session = .ready → ∃ block, calBlock s.cal = .ok block
  /-- "CAL holds a value exactly when SESSION = Ready" (10_state.md R34). -/
  calBeforeReady : s.session = .uninitialized → s.cal = []
  /-- RES_T's fields belong together, and to one temperature (10_state.md R38, 43_temperature.md R131). -/
  resT : s.resT.Coherent ∧ ∀ q, s.resT.fx = some q → ∃ celsius, s.resT.fl = some (tempOut q celsius)
  /-- RES_P's fields belong together, and to one pressure (10_state.md R38, 44_pressure.md R152). -/
  resP : s.resP.Coherent ∧ ∀ q, s.resP.fx = some q → ∃ unit, s.resP.fl = some (presOut q unit)
  /-- RES_H's fields belong together, and to one humidity, at most 100 % (10_state.md R38, 45_humidity.md R171, R172). -/
  resH : s.resH.Coherent ∧ ∀ q, s.resH.fx = some q → q.toNat ≤ 102400 ∧ s.resH.fl = some (humOut q)
  /-- A NaN in RES_D is NaN32 (46_derived.md R195). -/
  resD : ∀ v, s.resD = some v → isNaN v = true → v = nan32

/-- The session is Ready with this calibration block, and the FetchSmp a poll makes now returns this complete sample and
leaves the transport at `t`: the poll runs to its compensation (47_commands.md R212). -/
def State.Samples (s : State) (cal : CalBlock) (smp : SmpBlock) (t : Transport) : Prop :=
  s.session = .ready ∧ calBlock s.cal = .ok cal ∧ s.transport.fetchSmp = .ok (smp.toList, t)

/-- A step that neither faults nor is refused. -/
def Completes (s : State) : Prop := ∃ t, step s = .next t

end Sys2Proof.Machine
end

