-- ==== Sys2Proof/Certificates/Slice0/Obligations.lean ====
section
/-! DEFINITION. The statements for the provers, and before them the spec's own integer reading of the chains (00_scope.md
R10, R11): exact integers, wrapped after each operation. -/

namespace Sys2Proof.Spec

/-- wrapN(x): the integer in [-2^(n-1), 2^(n-1) - 1] congruent to x modulo 2^n (00_scope.md R10). -/
def wrap (n : Nat) (x : Int) : Int := (x + 2 ^ (n - 1)) % 2 ^ n - 2 ^ (n - 1)

/-- `x + y` in an sN chain (00_scope.md R11). -/
def add (n : Nat) (x y : Int) : Int := wrap n (x + y)

/-- `x − y` in an sN chain (00_scope.md R11). -/
def sub (n : Nat) (x y : Int) : Int := wrap n (x - y)

/-- `x × y` in an sN chain (00_scope.md R11). -/
def mul (n : Nat) (x y : Int) : Int := wrap n (x * y)

/-- `x << k` in an sN chain (00_scope.md R11). -/
def shl (n : Nat) (x : Int) (k : Nat) : Int := wrap n (x * 2 ^ k)

/-- `x >>> k`: floor(x / 2^k) (00_scope.md R11). -/
def asr (x : Int) (k : Nat) : Int := x / 2 ^ k

/-- The s32 chain of 43_temperature.md R130 on integers: t_fine and T100. -/
def tempChain (rawT T1 T2 T3 : Int) : Int × Int :=
  let a := sub 32 (asr rawT 3) (shl 32 T1 1)
  let var1 := asr (mul 32 a T2) 11
  let b := sub 32 (asr rawT 4) T1
  let var2 := asr (mul 32 (asr (mul 32 b b) 12) T3) 14
  let tFine := add 32 var1 var2
  (tFine, asr (add 32 (mul 32 tFine 5) 128) 8)

/-- The denominator of 44_pressure.md R150 on integers. -/
def pressureDen (tFine P1 P2 P3 : Int) : Int :=
  let v1 := sub 64 tFine 128000
  let v1 := add 64 (asr (mul 64 (mul 64 v1 v1) P3) 8) (shl 64 (mul 64 v1 P2) 12)
  asr (mul 64 (add 64 (2 ^ 47) v1) P1) 33

/-- The s64 chain of 44_pressure.md R150 on integers: PQ8, or none where the denominator is 0. -/
def pressureChain (rawP tFine P1 P2 P3 P4 P5 P6 P7 P8 P9 : Int) : Option Int :=
  let v1 := sub 64 tFine 128000
  let v2 := mul 64 (mul 64 v1 v1) P6
  let v2 := add 64 v2 (shl 64 (mul 64 v1 P5) 17)
  let v2 := add 64 v2 (shl 64 P4 35)
  let d := pressureDen tFine P1 P2 P3
  if d = 0 then none
  else
    let p := sub 64 1048576 rawP
    let p := wrap 64 ((mul 64 (sub 64 (shl 64 p 31) v2) 3125).tdiv d)
    let w1 := asr (mul 64 (mul 64 P9 (asr p 13)) (asr p 13)) 25
    let w2 := asr (mul 64 P8 p) 19
    let p := add 64 (asr (add 64 (add 64 p w1) w2) 8) (shl 64 P7 4)
    some (p % 2 ^ 32)

/-- The s32 chain of 45_humidity.md R170 on integers: HQ10. -/
def humidityChain (rawH tFine H1 H2 H3 H4 H5 H6 : Int) : Int :=
  let v := sub 32 tFine 76800
  let x := asr (add 32 (sub 32 (sub 32 (shl 32 rawH 14) (shl 32 H4 20)) (mul 32 H5 v)) 16384) 15
  let y1 := asr (mul 32 v H6) 10
  let y2 := add 32 (asr (mul 32 v H3) 11) 32768
  let y := add 32 (asr (mul 32 y1 y2) 10) 2097152
  let y := asr (add 32 (mul 32 y H2) 8192) 14
  let v := mul 32 x y
  let v := sub 32 v (asr (mul 32 (asr (mul 32 (asr v 15) (asr v 15)) 7) H1) 4)
  let v := if v < 0 then 0 else if 419430400 < v then 419430400 else v
  asr v 12

/-- A number of units a format with `prec` significant binary digits holds, its exponent unbounded above. -/
def Holds (prec k : Nat) : Prop := ∃ m e, m < 2 ^ prec ∧ k = m * 2 ^ e

/-- How far k is from num / den, in units of 1 / den. -/
def dist (num den k : Nat) : Nat := ((num : Int) - (k : Int) * (den : Int)).natAbs

/-- The last of a number's `prec` significant digits is 0. -/
def LastDigitEven (prec k : Nat) : Prop := k / 2 ^ (k.log2 - (prec - 1)) % 2 = 0

/-- The least units of binary64 that round up to 2^1024: half a last digit below it, the tie going up (00_scope.md R12). -/
def overflow64 : Nat := 2 ^ 2098 - 2 ^ 2044

/-- The least units of binary64 that round up to 2^128 in binary32 (00_scope.md R12). -/
def overflow32 : Nat := (2 ^ 277 - 2 ^ 252) * 2 ^ 925

/-- The exact number a finite binary64 stands for. -/
def value (neg : Bool) (units : Nat) : ℚ := (Machine.signedUnits neg units : ℚ) / 2 ^ 1074

/-- x is F64(r): r, as a sign and a quotient in units of 2^-1074, rounded (00_scope.md R12). -/
def IsF64 (r : ℚ) (x : Machine.F64) : Prop :=
  ∃ (neg : Bool) (num den : Nat), 0 < den ∧ r = (if neg then -1 else 1) * ((num : ℚ) / den) / 2 ^ 1074 ∧
    x = Machine.F64.round neg num den

/-- The units of 2^-1074 a finite binary32 pattern stands for: its exponent field and fraction by IEEE 754. -/
def unitsOf32 (b : F32) : Nat :=
  let exponent := b.toNat / 2 ^ 23 % 2 ^ 8
  let fraction := b.toNat % 2 ^ 23
  if exponent = 0 then fraction * 2 ^ 925 else (2 ^ 23 + fraction) * 2 ^ (exponent + 924)

/-- The finite binary32 patterns. -/
def Finite32 (b : F32) : Prop := b.toNat % 2 ^ 31 < 0x7F800000

/-- OP, M, RSV and UNIT of a command word as numbers (30_encoding.md R81). -/
def op (w : Word16) : Nat := w.toNat % 16

def mBit (w : Word16) : Bool := w.toNat / 16 % 2 == 1

def rsv (w : Word16) : Nat := w.toNat / 32 % 8

def unitField (w : Word16) : Nat := w.toNat / 256

/-- A word is illegal (30_encoding.md R87). -/
def IllegalWord (w : Word16) : Prop := op w = 0 ∨ 8 ≤ op w ∨ rsv w ≠ 0

/-- The commands that poll: all but BEGIN (60_exceptions.md R240). -/
def Polls : Instr → Prop
  | .beginSession => False
  | .readT _ | .readP _ | .readH | .readAll _ _ | .alt _ | .dew _ => True

/-- The commands that ask for pressure: READ_P, READ_ALL, ALT (60_exceptions.md R240). -/
def WantsPressure : Instr → Prop
  | .readP _ | .readAll _ _ | .alt _ => True
  | .beginSession | .readT _ | .readH | .dew _ => False

/-- A result register that a failed poll leaves: NaN32 and no value (10_state.md R38). -/
def failedReg : Machine.ResReg := { fl := some Machine.nan32, fx := none }

end Sys2Proof.Spec

open Sys2Proof Sys2Proof.Machine

/-! ## Encoding -/

/-- 30_encoding.md R88, with the fields read as numbers. -/
def Obligations.DecodeFollowsTheProcedure : Prop :=
  ∀ w : Word16, decode w =
    if Spec.rsv w ≠ 0 then .error .reservedBits
    else if Spec.op w = 1 then .ok .beginSession
    else if Spec.op w = 2 then .ok (.readT (Spec.mBit w))
    else if Spec.op w = 3 then .ok (.readP (.ofSelector (BitVec.ofNat 8 (Spec.unitField w))))
    else if Spec.op w = 4 then .ok .readH
    else if Spec.op w = 5 then .ok (.readAll (Spec.mBit w) (.ofSelector (BitVec.ofNat 8 (Spec.unitField w))))
    else if Spec.op w = 6 then .ok (.alt (Spec.mBit w))
    else if Spec.op w = 7 then .ok (.dew (Spec.mBit w))
    else .error (.reservedOp (BitVec.ofNat 4 (Spec.op w)))

/-- Decoding an encoded well-formed command gives it back, at every unit and flag. -/
def Obligations.DecodeEncodeRoundTrip : Prop :=
  ∀ i : Instr, i.wf = true → decode (encode i) = .ok i

/-- A decoded command is well formed, and its word differs from the encoder's only in fields the command ignores
(30_encoding.md R82): OP is the same and RSV is 0, M is the same where the command reads it, UNIT is the same where the
command reads it, and the encoder's word has 0 in the others. -/
def Obligations.EncodeGivesBackTheReadFields : Prop :=
  ∀ (w : Word16) (i : Instr), decode w = .ok i →
    i.wf = true ∧ Spec.op (encode i) = Spec.op w ∧ Spec.rsv (encode i) = 0 ∧ Spec.rsv w = 0 ∧
    (if Spec.op w ∈ [2, 5, 6, 7] then Spec.mBit (encode i) = Spec.mBit w else Spec.mBit (encode i) = false) ∧
    (if Spec.op w ∈ [3, 5] then Spec.unitField (encode i) = Spec.unitField w else Spec.unitField (encode i) = 0)

/-- 30_encoding.md R82: a field a command does not read is ignored; any value of it selects the same command with the
same effect. -/
def Obligations.IgnoredFieldsHaveNoEffect : Prop :=
  ∀ (w w' : Word16) (s : State) (slp : F32) (cfg : Cfg) (rest : List Request),
    Spec.rsv w = 0 → Spec.rsv w' = 0 → Spec.op w = Spec.op w' →
    (Spec.op w ∈ [2, 5, 6, 7] → Spec.mBit w = Spec.mBit w') →
    (Spec.op w ∈ [3, 5] → Spec.unitField w = Spec.unitField w') →
    decode w = decode w' ∧
    step { s with queue := { word := w, slp := slp, cfg := cfg } :: rest } =
      step { s with queue := { word := w', slp := slp, cfg := cfg } :: rest }

/-- Words of 30_encoding.md R90 and of 95_test_vectors.md C-1 to C-17 decode to what they stand for. -/
def Obligations.SampleWordsDecode : Prop :=
  decode 0x0001 = .ok .beginSession ∧ decode 0x0012 = .ok (.readT true) ∧ decode 0x0002 = .ok (.readT false) ∧
  decode 0x0103 = .ok (.readP .hpa) ∧ decode 0x0713 = .ok (.readP .psi) ∧ decode 0xFF03 = .ok (.readP (.other 255)) ∧
  decode 0x0004 = .ok .readH ∧ decode 0x0815 = .ok (.readAll true (.other 8)) ∧
  decode 0x0205 = .ok (.readAll false .inHg) ∧ decode 0x0016 = .ok (.alt true) ∧ decode 0x0007 = .ok (.dew false) ∧
  decode 0x0000 = .error (.reservedOp 0) ∧ decode 0x000F = .error (.reservedOp 15) ∧
  decode 0x0022 = .error .reservedBits ∧ decode 0x00F1 = .error .reservedBits

/-- 30_encoding.md R90, R91: the words of the assembler's lines, and a unit left out is PA. -/
def Obligations.AssemblerWords : Prop :=
  (assemble .beginSession = 0x0001 ∧ assemble .readH = 0x0004) ∧
  (∀ m, assemble (.readT m) = (if m then 0x0012 else 0x0002) ∧ assemble (.alt m) = (if m then 0x0016 else 0x0006) ∧
    assemble (.dew m) = (if m then 0x0017 else 0x0007)) ∧
  (∀ u, assemble (.readP (some u)) = (u.selector.setWidth 16 <<< 8) ||| 0x0003) ∧
  (∀ m u, assemble (.readAll m (some u)) = (u.selector.setWidth 16 <<< 8) ||| (if m then 0x0015 else 0x0005)) ∧
  (assemble (.readP none) = 0x0003 ∧ assemble (.readAll true none) = 0x0015 ∧ assemble (.readAll false none) = 0x0005)

/-! ## A step -/

/-- 47_commands.md R210: a step decodes the presented word and performs the decoded command, with the operands beside the
word on their inputs and the command taken off the host's queue (the queue and the input lines are the model's choice,
log 1). -/
def Obligations.StepRunsTheDecodedCommand : Prop :=
  ∀ (s : State) (r : Request) (rest : List Request) (i : Instr),
    s.queue = r :: rest → decode r.word = .ok i →
    step s = exec i { s with slp := r.slp, cfg := r.cfg, queue := rest }

/-- The model's choice (log 2; 70_reset_and_hazards.md R271: "the CB waits for its first command"): with no command
presented a step changes nothing. -/
def Obligations.StepWaitsWithNothingPresented : Prop :=
  ∀ s : State, s.queue = [] → step s = .next s

/-- 30_encoding.md R87, 47_commands.md R219: an illegal word writes STATUS.ERR and nothing else. The request's operands
stand on the input lines and the request is off the queue, as after every command (log 1). -/
def Obligations.IllegalWordReportsAndChangesNothingElse : Prop :=
  ∀ (s : State) (r : Request) (rest : List Request), s.queue = r :: rest →
    ((∃ e, decode r.word = .error e) ↔ Spec.IllegalWord r.word) ∧
    (Spec.IllegalWord r.word →
      step s = .next { s with slp := r.slp, cfg := r.cfg, queue := rest, err := .illegalCommand })

/-- The model's own loader (log 2): the very next step runs the word. -/
def Obligations.PresentedWordRunsNext : Prop :=
  ∀ (s : State) (w : Word16) (i : Instr), decode w = .ok i → step (s.withFetchWord 16 w.toNat) = exec i s

/-! ## State -/

/-- 70_reset_and_hazards.md R270. -/
def Obligations.ResetValues : Prop :=
  State.reset.session = .uninitialized ∧
  (∀ a, a < 32 → calRead State.reset.cal a = .error .calNoValue) ∧
  calBlock State.reset.cal = .error .calNoValue ∧
  State.reset.status = 0x0000 ∧
  (State.reset.resT = { fl := none, fx := none } ∧ State.reset.resP = { fl := none, fx := none } ∧
    State.reset.resH = { fl := none, fx := none } ∧ State.reset.resD = none)

/-- 10_state.md R37, 60_exceptions.md R240: the fields of STATUS and the codes in ERR. -/
def Obligations.StatusFields : Prop :=
  ∀ s : State,
    (s.status.toNat % 2 = 1 ↔ s.session = .ready) ∧ s.status.toNat / 2 % 8 = 0 ∧ s.status.toNat / 256 = 0 ∧
    s.status.toNat / 16 % 16 =
      (match s.err with
        | .ok => 0
        | .incompleteCalibration => 1
        | .incompleteSample => 2
        | .divisionByZero => 3
        | .notReady => 4
        | .alreadyReady => 5
        | .illegalCommand => 6)

/-- 10_state.md R39: the host's read of a field that holds no value is a fault, and of one that holds a value gives it. -/
def Obligations.ReadOfNoValueFaults : Prop :=
  ∀ s : State,
    (∀ f, f = .readNoValue →
      (s.resT.fl = none → s.readTempFl = .error f) ∧ (s.resT.fx = none → s.readTempFx = .error f) ∧
      (s.resP.fl = none → s.readPresFl = .error f) ∧ (s.resP.fx = none → s.readPresFx = .error f) ∧
      (s.resH.fl = none → s.readHumFl = .error f) ∧ (s.resH.fx = none → s.readHumFx = .error f) ∧
      (s.resD = none → s.readDerived = .error f)) ∧
    (∀ v : Word32,
      (s.resT.fl = some v → s.readTempFl = .ok v) ∧ (s.resT.fx = some v → s.readTempFx = .ok v) ∧
      (s.resP.fl = some v → s.readPresFl = .ok v) ∧ (s.resP.fx = some v → s.readPresFx = .ok v) ∧
      (s.resH.fl = some v → s.readHumFl = .ok v) ∧ (s.resH.fx = some v → s.readHumFx = .ok v) ∧
      (s.resD = some v → s.readDerived = .ok v))

/-- The invariant holds at reset (10_state.md R34, R38). -/
def Obligations.ResetMeetsTheInvariant : Prop := State.reset.Inv

/-- Every step keeps the invariant, from every state that meets it (10_state.md R34, R38; 45_humidity.md R171;
46_derived.md R195). -/
def Obligations.StepKeepsTheInvariant : Prop :=
  ∀ s t : State, s.Inv → step s = .next t → t.Inv

/-! ## Decoders -/

/-- 41_calibration.md R102 to R106: every coefficient but H4 and H5, as the number its bytes give. -/
def Obligations.CoefficientsFromTheirBytes : Prop :=
  ∀ (ext : H45Ext) (cal : CalBlock),
    let c := decodeCal ext cal
    let u16 := fun (i : Fin 31) => cal[i.val].toNat + 256 * cal[i.val + 1].toNat
    let s16 := fun (i : Fin 31) => Spec.wrap 16 (u16 i)
    c.t1.toNat = u16 0 ∧ c.t2.toInt = s16 2 ∧ c.t3.toInt = s16 4 ∧
    c.p1.toNat = u16 6 ∧ c.p2.toInt = s16 8 ∧ c.p3.toInt = s16 10 ∧ c.p4.toInt = s16 12 ∧ c.p5.toInt = s16 14 ∧
    c.p6.toInt = s16 16 ∧ c.p7.toInt = s16 18 ∧ c.p8.toInt = s16 20 ∧ c.p9.toInt = s16 22 ∧
    c.h1.toNat = cal[24].toNat ∧ c.h3.toNat = cal[27].toNat ∧
    c.h2.toInt = s16 25 ∧ c.h6.toInt = Spec.wrap 8 cal[31].toNat

/-- 41_calibration.md R107: H4 and H5 from their nibbles, under either extension. -/
def Obligations.NibbleCoefficientsFromTheirBytes : Prop :=
  ∀ (ext : H45Ext) (cal : CalBlock),
    let h4 : Nat := 16 * cal[28].toNat + cal[29].toNat % 16
    let h5 : Nat := 16 * cal[30].toNat + cal[29].toNat / 16
    let c := decodeCal ext cal
    match ext with
    | .sign => c.h4.toInt = Spec.wrap 12 h4 ∧ c.h5.toInt = Spec.wrap 12 h5
    | .zero => c.h4.toInt = h4 ∧ c.h5.toInt = h5

/-- 42_sample.md R121 to R123: the raw words as the numbers their bytes give. -/
def Obligations.RawWordsFromTheirBytes : Prop :=
  ∀ smp : SmpBlock,
    (decodeSmp smp).rawP.toNat = smp[0].toNat * 2 ^ 12 + smp[1].toNat * 2 ^ 4 + smp[2].toNat / 16 ∧
    (decodeSmp smp).rawT.toNat = smp[3].toNat * 2 ^ 12 + smp[4].toNat * 2 ^ 4 + smp[5].toNat / 16 ∧
    (decodeSmp smp).rawH.toNat = smp[6].toNat * 2 ^ 8 + smp[7].toNat

/-- 41_calibration.md R111: H45_EXT changes no humidity through H4, and changes some through H5. -/
def Obligations.OnlyH5ShowsTheExtension : Prop :=
  (∀ (h : BitVec 12) (rawH : BitVec 16) (tFine : Word32) (c : Coeffs),
    compH rawH tFine { c with h4 := extend12 .sign h } = compH rawH tFine { c with h4 := extend12 .zero h }) ∧
  (∃ (h : BitVec 12) (rawH : BitVec 16) (tFine : Word32) (c : Coeffs),
    compH rawH tFine { c with h5 := extend12 .sign h } ≠ compH rawH tFine { c with h5 := extend12 .zero h })

/-! ## Compensators -/

/-- 43_temperature.md R130: COMP_T is the wrapped integer chain. The spec has the formula's text from general knowledge, as
it has those of R150 and R170 (log 15). -/
def Obligations.TemperatureChainIsTheWrappedFormula : Prop :=
  ∀ (rawT : BitVec 20) (t1 t2 t3 : BitVec 16),
    ((compT rawT t1 t2 t3).tFine.toInt, (compT rawT t1 t2 t3).t100.toInt) =
      Spec.tempChain rawT.toNat t1.toNat t2.toInt t3.toInt

/-- 44_pressure.md R150, R154: COMP_P is the wrapped integer chain, truncated to 32 bits at its end, and fails exactly
where the denominator is 0. -/
def Obligations.PressureChainIsTheWrappedFormula : Prop :=
  ∀ (rawP : BitVec 20) (tFine : Word32) (c : Coeffs),
    (compP rawP tFine c).map (fun q => (q.toNat : Int)) =
      Spec.pressureChain rawP.toNat tFine.toInt c.p1.toNat c.p2.toInt c.p3.toInt c.p4.toInt c.p5.toInt c.p6.toInt
        c.p7.toInt c.p8.toInt c.p9.toInt

/-- 45_humidity.md R170: COMP_H is the wrapped integer chain, clamped. -/
def Obligations.HumidityChainIsTheWrappedFormula : Prop :=
  ∀ (rawH : BitVec 16) (tFine : Word32) (c : Coeffs),
    ((compH rawH tFine c).toNat : Int) =
      Spec.humidityChain rawH.toNat tFine.toInt c.h1.toNat c.h2.toInt c.h3.toNat c.h4.toInt c.h5.toInt c.h6.toInt

/-- 44_pressure.md R151: D = 0 whenever P1 = 0, and the pressure fails exactly when D = 0, which P4 to P9 and the raw
pressure do not change. -/
def Obligations.PressureFailsExactlyOnZeroDenominator : Prop :=
  (∀ (tFine : Word32) (p2 p3 : BitVec 16), pressureDenominator tFine 0 p2 p3 = 0) ∧
  (∀ (rawP rawP' : BitVec 20) (tFine : Word32) (c c' : Coeffs), c.p1 = c'.p1 → c.p2 = c'.p2 → c.p3 = c'.p3 →
    (compP rawP tFine c = none ↔ pressureDenominator tFine c.p1 c.p2 c.p3 = 0) ∧
    (compP rawP tFine c = none ↔ compP rawP' tFine c' = none))

/-- 45_humidity.md R171, R172, R173: HQ10 is at most 102400, and HUM_OUT of such a word is exactly HQ10 / 1024 (a number of
units that is HQ10 / 1024 of the units in 1), and no NaN. -/
def Obligations.HumidityIsExactAndAtMostHundred : Prop :=
  (∀ (rawH : BitVec 16) (tFine : Word32) (c : Coeffs), (compH rawH tFine c).toNat ≤ 102400) ∧
  (∀ hq10 : Word32, hq10.toNat ≤ 102400 →
    (∃ units, F64.ofF32 (humOut hq10) = .fin false units ∧ units * 1024 = hq10.toNat * one64) ∧
    isNaN (humOut hq10) = false) ∧
  humOut 0 = 0 ∧ humOut 102400 = 0x42C80000

/-! ## Floating point -/

/-- 00_scope.md R12: a rounded quotient is a number the format holds, no number the format holds is nearer, and on a tie its
last digit is even. Overflow and the operations built on it: Obligations.FloatOperationsRoundTheExactResult. -/
def Obligations.RoundingIsNearestTiesToEven : Prop :=
  ∀ prec num den : Nat, 2 ≤ prec → 0 < den →
    Spec.Holds prec (roundUnits prec num den) ∧
    ∀ j, Spec.Holds prec j →
      Spec.dist num den (roundUnits prec num den) ≤ Spec.dist num den j ∧
      (j ≠ roundUnits prec num den → Spec.dist num den (roundUnits prec num den) = Spec.dist num den j →
        Spec.LastDigitEven prec (roundUnits prec num den))

/-- 00_scope.md R12: the sum, difference, product and quotient of finite numbers, and a decimal constant, are the exact result
rounded once; F64 is the rounded quotient below the bound from which it rounds up to 2^1024, and the infinity of the sign
from there on; F32 is so below its bound for 2^128, and the infinity from there on. -/
def Obligations.FloatOperationsRoundTheExactResult : Prop :=
  (∀ (a b : Bool) (j k : Nat),
    Spec.IsF64 (Spec.value a j + Spec.value b k) ((F64.fin a j).add (.fin b k)) ∧
    Spec.IsF64 (Spec.value a j - Spec.value b k) ((F64.fin a j).sub (.fin b k)) ∧
    Spec.IsF64 (Spec.value a j * Spec.value b k) ((F64.fin a j).mul (.fin b k)) ∧
    (k ≠ 0 → Spec.IsF64 (Spec.value a j / Spec.value b k) ((F64.fin a j).div (.fin b k)))) ∧
  (∀ (neg : Bool) (num den : Nat), 0 < den →
    Spec.IsF64 ((if neg then -1 else 1) * ((num : ℚ) / den)) (F64.ofRat neg num den)) ∧
  (∀ (neg : Bool) (num den : Nat), 0 < den →
    F64.round neg num den =
      if num < Spec.overflow64 * den then .fin neg (roundUnits 53 num den) else .inf neg) ∧
  (∀ (neg : Bool) (k : Nat),
    (k < Spec.overflow32 → F64.ofF32 (F64.fin neg k).toF32 = .fin neg (roundUnits 24 k (2 ^ 925) * 2 ^ 925)) ∧
    (Spec.overflow32 ≤ k → (F64.fin neg k).toF32 = if neg then 0xFF800000 else 0x7F800000))

/-- 00_scope.md R12, 92_eei_decisions.md D7: a finite binary32 enters binary64 as exactly the number its sign, exponent and
fraction stand for, an infinity as that infinity, any other pattern as NaN; F32 gives the pattern back, and NaN32 for a
NaN. -/
def Obligations.Binary32EntersBinary64Exactly : Prop :=
  (∀ b : F32, Spec.Finite32 b → F64.ofF32 b = .fin (decide (2 ^ 31 ≤ b.toNat)) (Spec.unitsOf32 b)) ∧
  (F64.ofF32 0x7F800000 = .inf false ∧ F64.ofF32 0xFF800000 = .inf true) ∧
  (∀ b : F32, F64.ofF32 b = .nan ↔ isNaN b = true) ∧
  (∀ b : F32, (F64.ofF32 b).toF32 = if isNaN b then nan32 else b)

/-- The patterns of binary64 (92_eei_decisions.md D7): every pattern that is no NaN is that of its own value. -/
def Obligations.Binary64PatternsRoundTrip : Prop :=
  ∀ b : BitVec 64, F64.ofBits b ≠ .nan → (F64.ofBits b).toBits = b

/-- 46_derived.md R195: every NaN the block outputs is NaN32. Every output is an F32 of a binary64 or one of the two NaN tests
of R190 and R193: F32 of a NaN is NaN32 and F32 of anything else is no NaN, and ALTITUDE and DEWPOINT give no other NaN. -/
def Obligations.EveryOutputNaNIsNaN32 : Prop :=
  (∀ x : F64, x.toF32 = 0x7FC00000 ↔ x = .nan) ∧
  (∀ x : F64, isNaN x.toF32 = true → x.toF32 = 0x7FC00000) ∧
  (∀ (p slp : F32) (m : Bool), isNaN (altitude p slp m) = true → altitude p slp m = 0x7FC00000) ∧
  (∀ (t h : F32) (m : Bool), isNaN (dewPoint t h m) = true → dewPoint t h m = 0x7FC00000)

/-- 43_temperature.md R131: TEMP_OUT by its formula, never NaN, and its values at T100 = 0. -/
def Obligations.TemperatureOutputFollowsItsFormula : Prop :=
  (∀ q : Word32, tempOut q true = (F64.ofIntDiv q.toInt 100).toF32) ∧
  (∀ q : Word32, tempOut q false =
    ((((F64.ofIntDiv q.toInt 100).mul (F64.ofNat 9)).div (F64.ofNat 5)).add (F64.ofNat 32)).toF32) ∧
  (∀ (q : Word32) (m : Bool), isNaN (tempOut q m) = false) ∧
  (tempOut 0 true = 0x00000000 ∧ tempOut 0 false = 0x42000000)

/-- 44_pressure.md R152: PRES_OUT by its table on every value of UNIT, with no error; the identity units give the same
bits. -/
def Obligations.PressureOutputFollowsTheUnitTable : Prop :=
  (∀ (q : Word32) (u : BitVec 8),
    let pa := F64.ofRat false q.toNat 256
    presOut q (.ofSelector u) =
      if u.toNat = 1 then (pa.div (F64.ofNat 100)).toF32
      else if u.toNat = 2 then (pa.div (F64.ofRat false 33863752577878 (10 ^ 10))).toF32
      else if u.toNat = 3 then (pa.div (F64.ofRat false 10132499766353 (10 ^ 8))).toF32
      else if u.toNat = 4 then (pa.div (F64.ofNat 100000)).toF32
      else if u.toNat = 5 then (pa.div (F64.ofRat false 13332236534674 (10 ^ 11))).toF32
      else if u.toNat = 7 then (pa.div (F64.ofRat false 6894744825494 (10 ^ 9))).toF32
      else pa.toF32) ∧
  (∀ (q : Word32) (u : PressureUnit), isNaN (presOut q u) = false)

/-- 46_derived.md R190, R191: ALTITUDE by its formula; the non-metric value is the one before the 0.3048 multiplier. -/
def Obligations.AltitudeFollowsItsFormula : Prop :=
  ∀ (p slp : F32) (metric : Bool),
    let d := (F64.ofF32 slp).sub (F64.ofF32 p)
    let n := (F64.ofNat 1000).mul d
    let a := n.div (F64.ofRat false 33863752577878 (10 ^ 10))
    altitude p slp metric =
      if isNaN p = true ∨ isNaN slp = true then nan32
      else if metric then (a.mul (F64.ofRat false 3048 (10 ^ 4))).toF32 else a.toF32

/-- The corners of 46_derived.md R190: equal pressures give +0.0, a higher pressure than sea level's a negative result, an
infinite SLP the infinity of its sign, a NaN input NaN32; finite inputs give no NaN. The signs of zero and of the
infinities are those of IEEE 754 (log 12). -/
def Obligations.AltitudeCorners : Prop :=
  ∀ metric : Bool,
    (∀ p : F32, Spec.Finite32 p → altitude p p metric = 0) ∧
    (∀ p slp : F32, Spec.Finite32 p → Spec.Finite32 slp →
      isNaN (altitude p slp metric) = false ∧
      (∀ a j b k, F64.ofF32 p = .fin a j → F64.ofF32 slp = .fin b k → signedUnits b k < signedUnits a j →
        (altitude p slp metric).msb = true)) ∧
    (∀ p : F32, Spec.Finite32 p →
      altitude p 0x7F800000 metric = 0x7F800000 ∧ altitude p 0xFF800000 metric = 0xFF800000) ∧
    (∀ p slp : F32, isNaN p = true ∨ isNaN slp = true → altitude p slp metric = nan32)

/-- 46_derived.md R192, R193: DEWPOINT by its formula over LN64. LN64 is a free value but at 0 and 1, where
92_eei_decisions.md D18 gives it (log 8). -/
def Obligations.DewPointFollowsItsFormula : Prop :=
  let dewC := fun (t h : F64) =>
    let l := ln64 (h.div (F64.ofNat 100))
    let r := ((F64.ofRat false 17625 (10 ^ 3)).mul t).div ((F64.ofRat false 24304 (10 ^ 2)).add t)
    let g := l.add r
    ((F64.ofRat false 24304 (10 ^ 2)).mul g).div ((F64.ofRat false 17625 (10 ^ 3)).sub g)
  ∀ t h : F32,
    dewPoint t h true = (if isNaN t = true ∨ isNaN h = true then nan32
      else (dewC (F64.ofF32 t) (F64.ofF32 h)).toF32) ∧
    dewPoint t h false = (if isNaN t = true ∨ isNaN h = true then nan32
      else
        let tc := (((F64.ofF32 t).sub (F64.ofNat 32)).mul (F64.ofNat 5)).div (F64.ofNat 9)
        let td := dewC tc (F64.ofF32 h)
        (((td.mul (F64.ofNat 9)).div (F64.ofNat 5)).add (F64.ofNat 32)).toF32)

/-- 46_derived.md R192: the dew point of a 0 % reading is NaN32, whatever the temperature, the unit and the logarithm
elsewhere. -/
def Obligations.DewPointAtZeroHumidityIsNaN : Prop :=
  ∀ (t : F32) (metric : Bool), dewPoint t 0 metric = nan32

/-- 92_eei_decisions.md D18: LN64(0) = −∞ and LN64(1) = +0; at 100 % humidity the logarithm is +0 (46_derived.md R192). -/
def Obligations.LogarithmAtZeroAndOne : Prop :=
  ln64 (F64.ofNat 0) = .inf true ∧ ln64 (F64.ofNat 1) = .fin false 0 ∧
  ln64 ((F64.ofF32 0x42C80000).div (F64.ofNat 100)) = .fin false 0

/-! ## The transport -/

/-- 20_memory.md R65, 00_scope.md R13, R19: a fetch returns the answer the transport gives, whatever its count up to the
block's length; where State scripts no answer it is free, no longer than the block, and may never come. That answers are
scripted, used up and else counted as draws is the model's choice (log 3), and so is the record of transactions (log 14). -/
def Obligations.FetchReturnsTheTransportsAnswer : Prop :=
  ∀ t : Transport,
    (∀ list rest, t.cal = .bytes list :: rest → list.length ≤ 32 →
      t.fetchCal = .ok (list, { t with cal := rest, log := t.log ++ [.fetchCal] })) ∧
    (∀ list rest, t.smp = .bytes list :: rest → list.length ≤ 8 →
      t.fetchSmp = .ok (list, { t with smp := rest, log := t.log ++ [.fetchSmp] })) ∧
    (t.cal = [] → t.fetchCal = .error .transportNeverAnswers ∨ ∃ list, list.length ≤ 32 ∧
      t.fetchCal = .ok (list, { t with draws := t.draws + 1, log := t.log ++ [.fetchCal] })) ∧
    (t.smp = [] → t.fetchSmp = .error .transportNeverAnswers ∨ ∃ list, list.length ≤ 8 ∧
      t.fetchSmp = .ok (list, { t with draws := t.draws + 1, log := t.log ++ [.fetchSmp] }))

/-- 00_scope.md R18, 20_memory.md R68, R72: which transactions a command performs, in order. BEGIN pushes the configuration
and then fetches, but nothing when Ready; every other command fetches one sample, but nothing before BEGIN. The record it
is read from is the model's choice (log 14). -/
def Obligations.TransactionsOfEachCommand : Prop :=
  ∀ (i : Instr) (s t : State), exec i s = .next t →
    t.transport.log = s.transport.log ++
      (match i, s.session with
        | .beginSession, .uninitialized => [.pushCfg s.cfg, .fetchCal]
        | .beginSession, .ready => []
        | _, .uninitialized => []
        | _, .ready => [.fetchSmp])

/-! ## BEGIN -/

/-- 47_commands.md R211: with a complete calibration BEGIN loads all 32 bytes, makes the session Ready and reports OK; no
result register is written. -/
def Obligations.BeginLoadsTheCalibration : Prop :=
  ∀ (s : State) (bytes : List Byte) (t : Transport),
    s.session = .uninitialized → (s.transport.pushCfg s.cfg).fetchCal = .ok (bytes, t) → bytes.length = 32 →
    ∃ cal, exec .beginSession s = .next { s with transport := t, cal := cal, session := .ready, err := .ok } ∧
      (∀ a, a < 32 → ∃ b, bytes[a]? = some b ∧ calRead cal a = .ok b)

/-- 60_exceptions.md R241: a short calibration leaves the session and CAL as they were and reports
IncompleteCalibration. -/
def Obligations.BeginWithShortCalibrationFails : Prop :=
  ∀ (s : State) (bytes : List Byte) (t : Transport),
    s.session = .uninitialized → (s.transport.pushCfg s.cfg).fetchCal = .ok (bytes, t) → bytes.length < 32 →
    exec .beginSession s = .next { s with transport := t, err := .incompleteCalibration }

/-- 60_exceptions.md R245: BEGIN while Ready reports AlreadyReady, performs no transaction and changes nothing else. -/
def Obligations.BeginWhileReadyChangesNothingElse : Prop :=
  ∀ s : State, s.session = .ready → exec .beginSession s = .next { s with err := .alreadyReady }

/-! ## The reads on a complete sample -/

/-- 47_commands.md R213. -/
def Obligations.ReadTempWritesTheTemperature : Prop :=
  ∀ (celsius : Bool) (s : State) (cal : CalBlock) (smp : SmpBlock) (t : Transport), s.Samples cal smp t →
    let c := decodeCal s.h45Ext cal
    let t100 := (compT (decodeSmp smp).rawT c.t1 c.t2 c.t3).t100
    exec (.readT celsius) s =
      .next { s with transport := t, resT := { fl := some (tempOut t100 celsius), fx := some t100 }, err := .ok }

/-- 47_commands.md R214. -/
def Obligations.ReadPressureWritesThePressure : Prop :=
  ∀ (unit : PressureUnit) (s : State) (cal : CalBlock) (smp : SmpBlock) (t : Transport), s.Samples cal smp t →
    let c := decodeCal s.h45Ext cal
    let raw := decodeSmp smp
    let tFine := (compT raw.rawT c.t1 c.t2 c.t3).tFine
    (∀ q, compP raw.rawP tFine c = some q →
      exec (.readP unit) s =
        .next { s with transport := t, resP := { fl := some (presOut q unit), fx := some q }, err := .ok }) ∧
    (compP raw.rawP tFine c = none →
      exec (.readP unit) s = .next { s with transport := t, resP := Spec.failedReg, err := .divisionByZero })

/-- 47_commands.md R215. -/
def Obligations.ReadHumidityWritesTheHumidity : Prop :=
  ∀ (s : State) (cal : CalBlock) (smp : SmpBlock) (t : Transport), s.Samples cal smp t →
    let c := decodeCal s.h45Ext cal
    let raw := decodeSmp smp
    let hq10 := compH raw.rawH (compT raw.rawT c.t1 c.t2 c.t3).tFine c
    exec .readH s =
      .next { s with transport := t, resH := { fl := some (humOut hq10), fx := some hq10 }, err := .ok }

/-- 47_commands.md R216, 60_exceptions.md R243: three outputs of one sample; a zero denominator makes the pressure NaN32 and
leaves the temperature and humidity outputs their values. -/
def Obligations.ReadAllWritesThreeOutputsOfOneSample : Prop :=
  ∀ (metric : Bool) (unit : PressureUnit) (s : State) (cal : CalBlock) (smp : SmpBlock) (t : Transport),
    s.Samples cal smp t →
    let c := decodeCal s.h45Ext cal
    let raw := decodeSmp smp
    let f := compT raw.rawT c.t1 c.t2 c.t3
    let hq10 := compH raw.rawH f.tFine c
    let resT : ResReg := { fl := some (tempOut f.t100 metric), fx := some f.t100 }
    let resH : ResReg := { fl := some (humOut hq10), fx := some hq10 }
    (∀ q, compP raw.rawP f.tFine c = some q →
      exec (.readAll metric unit) s =
        .next { s with
          transport := t, resT := resT, resP := { fl := some (presOut q unit), fx := some q }, resH := resH,
          err := .ok }) ∧
    (compP raw.rawP f.tFine c = none →
      exec (.readAll metric unit) s =
        .next { s with
          transport := t, resT := resT, resP := Spec.failedReg, resH := resH, err := .divisionByZero })

/-- 47_commands.md R217: ALT takes the pressure in Pascals and the SLP input. -/
def Obligations.AltWritesTheAltitude : Prop :=
  ∀ (metric : Bool) (s : State) (cal : CalBlock) (smp : SmpBlock) (t : Transport), s.Samples cal smp t →
    let c := decodeCal s.h45Ext cal
    let raw := decodeSmp smp
    let tFine := (compT raw.rawT c.t1 c.t2 c.t3).tFine
    (∀ q, compP raw.rawP tFine c = some q →
      exec (.alt metric) s =
        .next { s with transport := t, resD := some (altitude (presOut q .pa) s.slp metric), err := .ok }) ∧
    (compP raw.rawP tFine c = none →
      exec (.alt metric) s = .next { s with transport := t, resD := some nan32, err := .divisionByZero })

/-- 47_commands.md R218: DEW takes the temperature in the unit of its flag and the humidity of one sample. The value rests
on the free logarithm and holds for every logarithm (log 8). -/
def Obligations.DewWritesTheDewPoint : Prop :=
  ∀ (metric : Bool) (s : State) (cal : CalBlock) (smp : SmpBlock) (t : Transport), s.Samples cal smp t →
    let c := decodeCal s.h45Ext cal
    let raw := decodeSmp smp
    let f := compT raw.rawT c.t1 c.t2 c.t3
    exec (.dew metric) s =
      .next { s with
        transport := t,
        resD := some (dewPoint (tempOut f.t100 metric) (humOut (compH raw.rawH f.tFine c)) metric),
        err := .ok }

/-! ## The reads that fail -/

/-- 60_exceptions.md R244: before BEGIN a read performs no transaction, its outputs are NaN32 and it reports NotReady. -/
def Obligations.ReadBeforeBeginReportsNotReady : Prop :=
  ∀ (m : Bool) (u : PressureUnit) (s : State), s.session = .uninitialized →
    exec (.readT m) s = .next { s with resT := Spec.failedReg, err := .notReady } ∧
    exec (.readP u) s = .next { s with resP := Spec.failedReg, err := .notReady } ∧
    exec .readH s = .next { s with resH := Spec.failedReg, err := .notReady } ∧
    exec (.readAll m u) s =
      .next { s with resT := Spec.failedReg, resP := Spec.failedReg, resH := Spec.failedReg, err := .notReady } ∧
    exec (.alt m) s = .next { s with resD := some nan32, err := .notReady } ∧
    exec (.dew m) s = .next { s with resD := some nan32, err := .notReady }

/-- 60_exceptions.md R242: a short sample makes every output of the command NaN32 and reports IncompleteSample. -/
def Obligations.ShortSampleReportsIncompleteSample : Prop :=
  ∀ (m : Bool) (u : PressureUnit) (s : State) (bytes : List Byte) (t : Transport),
    s.session = .ready → s.transport.fetchSmp = .ok (bytes, t) → bytes.length < 8 →
    exec (.readT m) s = .next { s with transport := t, resT := Spec.failedReg, err := .incompleteSample } ∧
    exec (.readP u) s = .next { s with transport := t, resP := Spec.failedReg, err := .incompleteSample } ∧
    exec .readH s = .next { s with transport := t, resH := Spec.failedReg, err := .incompleteSample } ∧
    exec (.readAll m u) s =
      .next { s with
        transport := t, resT := Spec.failedReg, resP := Spec.failedReg, resH := Spec.failedReg,
        err := .incompleteSample } ∧
    exec (.alt m) s = .next { s with transport := t, resD := some nan32, err := .incompleteSample } ∧
    exec (.dew m) s = .next { s with transport := t, resD := some nan32, err := .incompleteSample }

/-- 60_exceptions.md R248: the first check that fails, in the rule's order, is the one error a command reports. -/
def Obligations.FirstFailingCheckIsReported : Prop :=
  ∀ (i : Instr) (s t : State), exec i s = .next t →
    (i = .beginSession →
      (s.session = .ready → t.err = .alreadyReady) ∧
      (s.session = .uninitialized → ∃ bytes t', (s.transport.pushCfg s.cfg).fetchCal = .ok (bytes, t') ∧
        t.err = if bytes.length < 32 then .incompleteCalibration else .ok)) ∧
    (Spec.Polls i →
      (s.session = .uninitialized → t.err = .notReady) ∧
      (s.session = .ready → ∃ bytes t', s.transport.fetchSmp = .ok (bytes, t') ∧
        (bytes.length < 8 → t.err = .incompleteSample) ∧
        (∀ (cal : CalBlock) (smp : SmpBlock), bytes = smp.toList → calBlock s.cal = .ok cal →
          let c := decodeCal s.h45Ext cal
          let tFine := (compT (decodeSmp smp).rawT c.t1 c.t2 c.t3).tFine
          (Spec.WantsPressure i ∧ pressureDenominator tFine c.p1 c.p2 c.p3 = 0 → t.err = .divisionByZero) ∧
          (¬ (Spec.WantsPressure i ∧ pressureDenominator tFine c.p1 c.p2 c.p3 = 0) → t.err = .ok))))

/-- 30_encoding.md R84, 44_pressure.md R152: a selector of 8 to 255, and 6, gives READ_P and READ_ALL the effect they have in
Pascals, with no error of its own. -/
def Obligations.UnnamedUnitsAreReadInPascals : Prop :=
  ∀ (u : BitVec 8) (m : Bool) (s : State), u.toNat = 6 ∨ 8 ≤ u.toNat →
    exec (.readP (.ofSelector u)) s = exec (.readP .pa) s ∧
    exec (.readAll m (.ofSelector u)) s = exec (.readAll m .pa) s

/-! ## Frames -/

/-- 10_state.md R41: a read writes the result registers of its row, STATUS.ERR and the transport, and nothing else; every
byte of CAL reads as before. -/
def Obligations.ReadsChangeOnlyTheirRegisters : Prop :=
  ∀ (m : Bool) (u : PressureUnit) (s t : State),
    let kept := t.session = s.session ∧ (∀ a, calRead t.cal a = calRead s.cal a) ∧ t.resD = s.resD ∧
      t.h45Ext = s.h45Ext ∧ t.slp = s.slp ∧ t.cfg = s.cfg ∧ t.queue = s.queue ∧ t.transport.cal = s.transport.cal
    (exec (.readT m) s = .next t → kept ∧ t.resP = s.resP ∧ t.resH = s.resH) ∧
    (exec (.readP u) s = .next t → kept ∧ t.resT = s.resT ∧ t.resH = s.resH) ∧
    (exec .readH s = .next t → kept ∧ t.resT = s.resT ∧ t.resP = s.resP) ∧
    (exec (.readAll m u) s = .next t → kept)

/-- 10_state.md R41: ALT and DEW write RES_D, STATUS.ERR and the transport, and nothing else. -/
def Obligations.DerivedCommandsChangeOnlyTheirRegister : Prop :=
  ∀ (m : Bool) (s t : State), exec (.alt m) s = .next t ∨ exec (.dew m) s = .next t →
    t.session = s.session ∧ (∀ a, calRead t.cal a = calRead s.cal a) ∧
    t.resT = s.resT ∧ t.resP = s.resP ∧ t.resH = s.resH ∧
    t.h45Ext = s.h45Ext ∧ t.slp = s.slp ∧ t.cfg = s.cfg ∧ t.queue = s.queue ∧ t.transport.cal = s.transport.cal

/-- 10_state.md R41, R34: BEGIN writes no result register; it stores to the offsets 0 to 31 of CAL on success, and changes
nothing of CAL otherwise. -/
def Obligations.BeginChangesOnlySessionAndCalibration : Prop :=
  ∀ s t : State, exec .beginSession s = .next t →
    t.resT = s.resT ∧ t.resP = s.resP ∧ t.resH = s.resH ∧ t.resD = s.resD ∧
    t.h45Ext = s.h45Ext ∧ t.slp = s.slp ∧ t.cfg = s.cfg ∧ t.queue = s.queue ∧ t.transport.smp = s.transport.smp ∧
    (t.err ≠ .ok → t.session = s.session ∧ t.cal = s.cal) ∧
    (∀ a, 32 ≤ a → Memory.lookup a t.cal = Memory.lookup a s.cal)

/-! ## The whole machine -/

/-- 10_state.md R33, 47_commands.md R221: a step changes SESSION only from Uninitialized to Ready, and only by a BEGIN word
that reports OK. -/
def Obligations.OnlyASuccessfulBeginChangesTheSession : Prop :=
  ∀ s t : State, step s = .next t → t.session ≠ s.session →
    s.session = .uninitialized ∧ t.session = .ready ∧ t.err = .ok ∧
    ∃ r rest, s.queue = r :: rest ∧ decode r.word = .ok .beginSession

/-- 10_state.md R34, 41_calibration.md R110, 70_reset_and_hazards.md R276: from a Ready state, after any number of steps, the
session is Ready and the calibration and so every coefficient is the one it was. -/
def Obligations.ReadySessionKeepsItsCoefficients : Prop :=
  ∀ (k : Nat) (s t : State), s.session = .ready → core.run k s = .next t →
    t.session = .ready ∧ t.cal = s.cal ∧
    ∀ cal, calBlock s.cal = .ok cal → ∃ cal', calBlock t.cal = .ok cal' ∧
      decodeCal t.h45Ext cal' = decodeCal s.h45Ext cal

/-- 10_state.md R40, 47_commands.md R220: what a command does depends on SESSION, CAL, H45_EXT, its operands and the
transport alone: two states that agree on these and differ in STATUS.ERR and the result registers stop for the same
reason, or go on to states that agree on what the command wrote. -/
def Obligations.EarlierOutcomesDoNotInfluenceACommand : Prop :=
  ∀ (i : Instr) (s₁ s₂ : State), s₁.session = s₂.session → s₁.cal = s₂.cal → s₁.h45Ext = s₂.h45Ext →
    s₁.slp = s₂.slp → s₁.cfg = s₂.cfg → s₁.transport = s₂.transport →
    (∀ f, exec i s₁ = .fault f → exec i s₂ = .fault f) ∧
    (∀ t₁, exec i s₁ = .next t₁ → ∃ t₂, exec i s₂ = .next t₂ ∧
      t₁.session = t₂.session ∧ t₁.cal = t₂.cal ∧ t₁.err = t₂.err ∧ t₁.transport = t₂.transport ∧
      (t₁.resT = t₂.resT ∨ t₁.resT = s₁.resT ∧ t₂.resT = s₂.resT) ∧
      (t₁.resP = t₂.resP ∨ t₁.resP = s₁.resP ∧ t₂.resP = s₂.resP) ∧
      (t₁.resH = t₂.resH ∨ t₁.resH = s₁.resH ∧ t₂.resH = s₂.resH) ∧
      (t₁.resD = t₂.resD ∨ t₁.resD = s₁.resD ∧ t₂.resD = s₂.resD))

/-- 60_exceptions.md R252, 00_scope.md R19: a good state's step completes when the answer it waits for arrives: FetchCal's
before the session is Ready, FetchSmp's after. The arrival is a premise of a scripted and of a free answer alike; no free
answer is known to arrive (log 3). -/
def Obligations.StepCompletesWhenAnswersArrive : Prop :=
  ∀ s : State, s.Inv → (s.session = .uninitialized → s.transport.CalArrives) →
    (s.session = .ready → s.transport.SmpArrives) → Completes s

/-- 60_exceptions.md R252, 00_scope.md R19: a good state's step stops only in a fetch whose answer never comes or is longer
than its block (log 4, log 5); no state's step is refused. -/
def Obligations.StepStopsOnlyInAFetch : Prop :=
  (∀ (s : State) (f : Fault), s.Inv → step s = .fault f →
    (f = .transportNeverAnswers ∨ f = .answerTooLong) ∧
    ((s.session = .uninitialized ∧ ¬ s.transport.CalArrives) ∨ (s.session = .ready ∧ ¬ s.transport.SmpArrives))) ∧
  (∀ (s : State) (r : Refusal), step s ≠ .refused r)

/-- 00_scope.md R19, 70_reset_and_hazards.md R278: a fetch that never returns, its answer scripted or free, ends no command:
BEGIN before the session is Ready, and every read after, stop in it (log 4). -/
def Obligations.AFetchThatNeverReturnsEndsNoCommand : Prop :=
  ∀ s : State,
    (s.session = .uninitialized → s.transport.calAnswer = .never →
      exec .beginSession s = .fault .transportNeverAnswers) ∧
    (∀ i, Spec.Polls i → s.session = .ready → s.transport.smpAnswer = .never →
      exec i s = .fault .transportNeverAnswers)
end

