-- ==== Sys2Proof/Laws/Encoding.lean ====
section
/-! SUPPORT. The fields of a command word as numbers, and the fields the encoder's word has (30_encoding.md R81). -/

namespace Sys2Proof

theorem toNat_fieldOp (w : Word16) : (fieldOp w).toNat = w.toNat % 16 := by
  simp [fieldOp]

theorem toNat_fieldRsv (w : Word16) : (fieldRsv w).toNat = w.toNat / 32 % 8 := by
  simp [fieldRsv, Nat.shiftRight_eq_div_pow]

theorem toNat_fieldUnit (w : Word16) : (fieldUnit w).toNat = w.toNat / 256 := by
  have := w.isLt
  simp only [fieldUnit, BitVec.extractLsb'_toNat, Nat.shiftRight_eq_div_pow]
  omega

theorem fieldM_eq (w : Word16) : fieldM w = decide (w.toNat / 16 % 2 = 1) := by
  simp only [fieldM, BitVec.getLsbD, Nat.testBit_eq_decide_div_mod_eq]

/-- The number a command word is: UNIT, M and OP at their places, RSV 0. -/
theorem toNat_commandWord (op : BitVec 4) (m : Bool) (unit : BitVec 8) :
    (commandWord op m unit).toNat = 256 * unit.toNat + 16 * m.toNat + op.toNat := by
  have hop := op.isLt
  have hm : m.toNat < 2 := by cases m <;> simp
  have hm' : (BitVec.ofBool m).toNat = m.toNat := by cases m <;> rfl
  simp only [commandWord, BitVec.toNat_append]
  rw [hm', show (0 : BitVec 3).toNat = 0 from rfl, Nat.or_zero,
    ← Nat.shiftLeft_add_eq_or_of_lt (show m.toNat < 2 ^ 1 by omega),
    ← Nat.shiftLeft_add_eq_or_of_lt (show op.toNat < 2 ^ 4 by omega)]
  simp only [Nat.shiftLeft_eq]
  omega

@[simp] theorem fieldOp_commandWord (op : BitVec 4) (m : Bool) (unit : BitVec 8) :
    fieldOp (commandWord op m unit) = op := by
  apply BitVec.eq_of_toNat_eq
  have := op.isLt
  rw [toNat_fieldOp, toNat_commandWord]
  omega

@[simp] theorem fieldM_commandWord (op : BitVec 4) (m : Bool) (unit : BitVec 8) :
    fieldM (commandWord op m unit) = m := by
  have := op.isLt
  rw [fieldM_eq, toNat_commandWord]
  cases m <;> simp <;> omega

@[simp] theorem fieldRsv_commandWord (op : BitVec 4) (m : Bool) (unit : BitVec 8) :
    fieldRsv (commandWord op m unit) = 0 := by
  apply BitVec.eq_of_toNat_eq
  have := op.isLt
  have hm : m.toNat < 2 := by cases m <;> simp
  rw [toNat_fieldRsv, toNat_commandWord]
  simp
  omega

@[simp] theorem fieldUnit_commandWord (op : BitVec 4) (m : Bool) (unit : BitVec 8) :
    fieldUnit (commandWord op m unit) = unit := by
  apply BitVec.eq_of_toNat_eq
  have := op.isLt
  have hm : m.toNat < 2 := by cases m <;> simp
  rw [toNat_fieldUnit, toNat_commandWord]
  omega

/-- A unit read from a selector has that selector. -/
@[simp] theorem PressureUnit.selector_ofSelector (u : BitVec 8) : (PressureUnit.ofSelector u).selector = u := by
  unfold PressureUnit.ofSelector
  split
  all_goals first
    | rfl
    | (next h => apply BitVec.eq_of_toNat_eq; rw [h]; rfl)

/-- A unit read from a selector is well formed. -/
theorem PressureUnit.wf_ofSelector (u : BitVec 8) : (PressureUnit.ofSelector u).wf = true := by
  revert u
  decide

/-- A well-formed unit is read back from its selector. -/
theorem PressureUnit.ofSelector_selector {u : PressureUnit} (h : u.wf = true) : PressureUnit.ofSelector u.selector = u := by
  cases u with
  | other selector =>
    simp only [PressureUnit.wf, decide_eq_true_eq] at h
    simp only [PressureUnit.ofSelector, PressureUnit.selector]
    split
    all_goals first
      | omega
      | rfl
  | _ => rfl

end Sys2Proof
end

