-- ==== Sys2Proof/Laws/State.lean ====
section
/-! SUPPORT. One lemma per field per update of State, each true by rfl, so that no later proof unfolds an update. -/

namespace Sys2Proof.Machine

/-! ### setErr -/

@[simp] theorem State.setErr_session (e : Err) (s : State) : (s.setErr e).session = s.session := rfl
@[simp] theorem State.setErr_cal (e : Err) (s : State) : (s.setErr e).cal = s.cal := rfl
@[simp] theorem State.setErr_err (e : Err) (s : State) : (s.setErr e).err = e := rfl
@[simp] theorem State.setErr_resT (e : Err) (s : State) : (s.setErr e).resT = s.resT := rfl
@[simp] theorem State.setErr_resP (e : Err) (s : State) : (s.setErr e).resP = s.resP := rfl
@[simp] theorem State.setErr_resH (e : Err) (s : State) : (s.setErr e).resH = s.resH := rfl
@[simp] theorem State.setErr_resD (e : Err) (s : State) : (s.setErr e).resD = s.resD := rfl
@[simp] theorem State.setErr_h45Ext (e : Err) (s : State) : (s.setErr e).h45Ext = s.h45Ext := rfl
@[simp] theorem State.setErr_slp (e : Err) (s : State) : (s.setErr e).slp = s.slp := rfl
@[simp] theorem State.setErr_cfg (e : Err) (s : State) : (s.setErr e).cfg = s.cfg := rfl
@[simp] theorem State.setErr_queue (e : Err) (s : State) : (s.setErr e).queue = s.queue := rfl
@[simp] theorem State.setErr_transport (e : Err) (s : State) : (s.setErr e).transport = s.transport := rfl

/-! ### raise -/

@[simp] theorem State.raise_session (e : Err) (s : State) : (s.raise e).session = s.session := rfl
@[simp] theorem State.raise_cal (e : Err) (s : State) : (s.raise e).cal = s.cal := rfl
@[simp] theorem State.raise_err (e : Err) (s : State) : (s.raise e).err = e := rfl
@[simp] theorem State.raise_resT (e : Err) (s : State) : (s.raise e).resT = s.resT := rfl
@[simp] theorem State.raise_resP (e : Err) (s : State) : (s.raise e).resP = s.resP := rfl
@[simp] theorem State.raise_resH (e : Err) (s : State) : (s.raise e).resH = s.resH := rfl
@[simp] theorem State.raise_resD (e : Err) (s : State) : (s.raise e).resD = s.resD := rfl
@[simp] theorem State.raise_h45Ext (e : Err) (s : State) : (s.raise e).h45Ext = s.h45Ext := rfl
@[simp] theorem State.raise_slp (e : Err) (s : State) : (s.raise e).slp = s.slp := rfl
@[simp] theorem State.raise_cfg (e : Err) (s : State) : (s.raise e).cfg = s.cfg := rfl
@[simp] theorem State.raise_queue (e : Err) (s : State) : (s.raise e).queue = s.queue := rfl
@[simp] theorem State.raise_transport (e : Err) (s : State) : (s.raise e).transport = s.transport := rfl

/-! ### present -/

@[simp] theorem State.present_session (r : Request) (rest : List Request) (s : State) : (s.present r rest).session = s.session := rfl
@[simp] theorem State.present_cal (r : Request) (rest : List Request) (s : State) : (s.present r rest).cal = s.cal := rfl
@[simp] theorem State.present_err (r : Request) (rest : List Request) (s : State) : (s.present r rest).err = s.err := rfl
@[simp] theorem State.present_resT (r : Request) (rest : List Request) (s : State) : (s.present r rest).resT = s.resT := rfl
@[simp] theorem State.present_resP (r : Request) (rest : List Request) (s : State) : (s.present r rest).resP = s.resP := rfl
@[simp] theorem State.present_resH (r : Request) (rest : List Request) (s : State) : (s.present r rest).resH = s.resH := rfl
@[simp] theorem State.present_resD (r : Request) (rest : List Request) (s : State) : (s.present r rest).resD = s.resD := rfl
@[simp] theorem State.present_h45Ext (r : Request) (rest : List Request) (s : State) : (s.present r rest).h45Ext = s.h45Ext := rfl
@[simp] theorem State.present_slp (r : Request) (rest : List Request) (s : State) : (s.present r rest).slp = r.slp := rfl
@[simp] theorem State.present_cfg (r : Request) (rest : List Request) (s : State) : (s.present r rest).cfg = r.cfg := rfl
@[simp] theorem State.present_queue (r : Request) (rest : List Request) (s : State) : (s.present r rest).queue = rest := rfl
@[simp] theorem State.present_transport (r : Request) (rest : List Request) (s : State) : (s.present r rest).transport = s.transport := rfl

/-! ### withFetchWord -/

@[simp] theorem State.withFetchWord_session (nbits w : Nat) (s : State) : (s.withFetchWord nbits w).session = s.session := rfl
@[simp] theorem State.withFetchWord_cal (nbits w : Nat) (s : State) : (s.withFetchWord nbits w).cal = s.cal := rfl
@[simp] theorem State.withFetchWord_err (nbits w : Nat) (s : State) : (s.withFetchWord nbits w).err = s.err := rfl
@[simp] theorem State.withFetchWord_resT (nbits w : Nat) (s : State) : (s.withFetchWord nbits w).resT = s.resT := rfl
@[simp] theorem State.withFetchWord_resP (nbits w : Nat) (s : State) : (s.withFetchWord nbits w).resP = s.resP := rfl
@[simp] theorem State.withFetchWord_resH (nbits w : Nat) (s : State) : (s.withFetchWord nbits w).resH = s.resH := rfl
@[simp] theorem State.withFetchWord_resD (nbits w : Nat) (s : State) : (s.withFetchWord nbits w).resD = s.resD := rfl
@[simp] theorem State.withFetchWord_h45Ext (nbits w : Nat) (s : State) : (s.withFetchWord nbits w).h45Ext = s.h45Ext := rfl
@[simp] theorem State.withFetchWord_slp (nbits w : Nat) (s : State) : (s.withFetchWord nbits w).slp = s.slp := rfl
@[simp] theorem State.withFetchWord_cfg (nbits w : Nat) (s : State) : (s.withFetchWord nbits w).cfg = s.cfg := rfl
@[simp] theorem State.withFetchWord_queue (nbits w : Nat) (s : State) : (s.withFetchWord nbits w).queue = s.requestOf (tableWord nbits w) :: s.queue := rfl
@[simp] theorem State.withFetchWord_transport (nbits w : Nat) (s : State) : (s.withFetchWord nbits w).transport = s.transport := rfl

/-! ### Illegal words, outputs and the transport -/

/-- An illegal word writes STATUS.ERR and nothing else (47_commands.md R219). -/
theorem illegalCommand_eq (s : State) : illegalCommand s = { s with err := .illegalCommand } := rfl

@[simp] theorem State.requestOf_word (s : State) (w : Word16) : (s.requestOf w).word = w := rfl
@[simp] theorem State.requestOf_slp (s : State) (w : Word16) : (s.requestOf w).slp = s.slp := rfl
@[simp] theorem State.requestOf_cfg (s : State) (w : Word16) : (s.requestOf w).cfg = s.cfg := rfl

/-- Presenting the word's own operands back leaves the input lines as they were. -/
theorem State.present_withFetchWord (s : State) (w : Word16) :
    s.present (s.requestOf w) s.queue = s := rfl

@[simp] theorem Output.toReg_fl (o : Output) : o.toReg.fl = some o.fl := rfl
@[simp] theorem Output.toReg_fx (o : Output) : o.toReg.fx = o.fx := rfl
@[simp] theorem Output.failed_fl : Output.failed.fl = nan32 := rfl
@[simp] theorem Output.failed_fx : Output.failed.fx = none := rfl
@[simp] theorem Output.temperature_fl (q : Word32) (m : Bool) : (Output.temperature q m).fl = tempOut q m := rfl
@[simp] theorem Output.temperature_fx (q : Word32) (m : Bool) : (Output.temperature q m).fx = some q := rfl
@[simp] theorem Output.pressure_fl (u : PressureUnit) (q : Word32) : (Output.pressure u q).fl = presOut q u := rfl
@[simp] theorem Output.pressure_fx (u : PressureUnit) (q : Word32) : (Output.pressure u q).fx = some q := rfl
@[simp] theorem Output.humidity_fl (q : Word32) : (Output.humidity q).fl = humOut q := rfl
@[simp] theorem Output.humidity_fx (q : Word32) : (Output.humidity q).fx = some q := rfl
@[simp] theorem Reading.failed_err (e : Err) : (Reading.failed e).err = e := rfl
@[simp] theorem Reading.failed_t (e : Err) : (Reading.failed e).t = .failed := rfl
@[simp] theorem Reading.failed_p (e : Err) : (Reading.failed e).p = .failed := rfl
@[simp] theorem Reading.failed_h (e : Err) : (Reading.failed e).h = .failed := rfl

@[simp] theorem Transport.pushCfg_cal (c : Cfg) (t : Transport) : (t.pushCfg c).cal = t.cal := rfl
@[simp] theorem Transport.pushCfg_smp (c : Cfg) (t : Transport) : (t.pushCfg c).smp = t.smp := rfl
@[simp] theorem Transport.pushCfg_draws (c : Cfg) (t : Transport) : (t.pushCfg c).draws = t.draws := rfl
@[simp] theorem Transport.pushCfg_log (c : Cfg) (t : Transport) : (t.pushCfg c).log = t.log ++ [.pushCfg c] := rfl

@[simp] theorem readField_some {α : Type} (v : α) : readField (some v) = .ok v := rfl
@[simp] theorem readField_none {α : Type} : readField (none : Option α) = .error .readNoValue := rfl

end Sys2Proof.Machine
end

