-- ==== Sys2Proof/Laws/Transport.lean ====
section
/-! SUPPORT. What a fetch can do, said once: when it answers, the bytes are no longer than the block, the transaction is
recorded and the other block's answers are as they were; when it does not, its scripted answer is the reason. -/

namespace Sys2Proof.Machine

/-- A list of bytes is a complete block exactly when its length is the block's. -/
theorem completeBlock_eq_some_iff {n : Nat} {bytes : List Byte} {v : Vector Byte n} :
    completeBlock n bytes = some v ↔ bytes = v.toList := by
  unfold completeBlock
  constructor
  · intro h
    split at h
    · cases h; simp
    · cases h
  · rintro rfl
    simp only [Vector.length_toList, dite_true]
    rfl

theorem completeBlock_eq_none_iff {n : Nat} {bytes : List Byte} :
    completeBlock n bytes = none ↔ bytes.length ≠ n := by
  unfold completeBlock
  split <;> simp_all

theorem completeBlock_toList {n : Nat} (v : Vector Byte n) : completeBlock n v.toList = some v :=
  completeBlock_eq_some_iff.mpr rfl

/-- Pushing the configuration changes no answer (20_memory.md R68). -/
@[simp] theorem Transport.pushCfg_calAnswer (c : Cfg) (t : Transport) : (t.pushCfg c).calAnswer = t.calAnswer := rfl

@[simp] theorem Transport.pushCfg_smpAnswer (c : Cfg) (t : Transport) : (t.pushCfg c).smpAnswer = t.smpAnswer := rfl

/-- What an answer that is received is. -/
theorem Answer.receive_ok {n : Nat} {a : Answer} {list : List Byte} (h : a.receive n = .ok list) :
    a = .bytes list ∧ list.length ≤ n := by
  cases a with
  | never => cases h
  | bytes l =>
    simp only [Answer.receive] at h
    split at h
    · next hle => cases h; exact ⟨rfl, hle⟩
    · cases h

/-- An answer that arrives is received. -/
theorem Answer.receive_arrives {n : Nat} {a : Answer} (h : a.Arrives n) : ∃ list, a.receive n = .ok list := by
  cases a with
  | never => exact h.elim
  | bytes l => exact ⟨l, if_pos h⟩

/-- An answer that is not received never comes or is too long, and so does not arrive. -/
theorem Answer.receive_error {n : Nat} {a : Answer} {f : Fault} (h : a.receive n = .error f) :
    (f = .transportNeverAnswers ∨ f = .answerTooLong) ∧ ¬ a.Arrives n := by
  cases a with
  | never => cases h; exact ⟨.inl rfl, id⟩
  | bytes l =>
    simp only [Answer.receive] at h
    split at h
    · cases h
    · next hlt => cases h; exact ⟨.inr rfl, hlt⟩

theorem Answer.free_eq_bytes {n : Nat} {o : Option (List Byte)} {list : List Byte} (h : Answer.free n o = .bytes list) :
    ∃ l, o = some l ∧ list = l.take n := by
  cases o with
  | none => cases h
  | some l => cases h; exact ⟨l, rfl, rfl⟩

/-- Everything a FetchCal that returns does. -/
theorem Transport.fetchCal_ok {t t' : Transport} {bytes : List Byte} (h : t.fetchCal = .ok (bytes, t')) :
    bytes.length ≤ Config.calLen ∧ t'.log = t.log ++ [.fetchCal] ∧ t'.smp = t.smp ∧
      ((t.cal = .bytes bytes :: t'.cal ∧ t'.draws = t.draws) ∨
        (t.cal = [] ∧ t'.cal = [] ∧ t'.draws = t.draws + 1 ∧
          ∃ l, Config.freeCalAnswer t.draws = some l ∧ bytes = l.take Config.calLen)) := by
  unfold Transport.fetchCal at h
  split at h
  · cases h
  · next list hr =>
    obtain ⟨ha, hle⟩ := Answer.receive_ok hr
    cases h
    refine ⟨hle, rfl, rfl, ?_⟩
    unfold Transport.calAnswer at ha
    cases hcal : t.cal with
    | nil => exact .inr ⟨rfl, rfl, rfl, Answer.free_eq_bytes (by simpa [hcal] using ha)⟩
    | cons a rest => exact .inl ⟨by simpa [hcal] using ha, rfl⟩

/-- Everything a FetchSmp that returns does. -/
theorem Transport.fetchSmp_ok {t t' : Transport} {bytes : List Byte} (h : t.fetchSmp = .ok (bytes, t')) :
    bytes.length ≤ Config.smpLen ∧ t'.log = t.log ++ [.fetchSmp] ∧ t'.cal = t.cal ∧
      ((t.smp = .bytes bytes :: t'.smp ∧ t'.draws = t.draws) ∨
        (t.smp = [] ∧ t'.smp = [] ∧ t'.draws = t.draws + 1 ∧
          ∃ l, Config.freeSmpAnswer t.draws = some l ∧ bytes = l.take Config.smpLen)) := by
  unfold Transport.fetchSmp at h
  split at h
  · cases h
  · next list hr =>
    obtain ⟨ha, hle⟩ := Answer.receive_ok hr
    cases h
    refine ⟨hle, rfl, rfl, ?_⟩
    unfold Transport.smpAnswer at ha
    cases hsmp : t.smp with
    | nil => exact .inr ⟨rfl, rfl, rfl, Answer.free_eq_bytes (by simpa [hsmp] using ha)⟩
    | cons a rest => exact .inl ⟨by simpa [hsmp] using ha, rfl⟩

/-- A FetchCal whose answer arrives returns. -/
theorem Transport.fetchCal_arrives {t : Transport} (h : t.CalArrives) : ∃ bytes t', t.fetchCal = .ok (bytes, t') := by
  obtain ⟨list, hr⟩ := Answer.receive_arrives h
  exact ⟨list, _, by rw [Transport.fetchCal, hr]⟩

/-- A FetchSmp whose answer arrives returns. -/
theorem Transport.fetchSmp_arrives {t : Transport} (h : t.SmpArrives) : ∃ bytes t', t.fetchSmp = .ok (bytes, t') := by
  obtain ⟨list, hr⟩ := Answer.receive_arrives h
  exact ⟨list, _, by rw [Transport.fetchSmp, hr]⟩

/-- A FetchCal that does not return has an answer that does not arrive. -/
theorem Transport.fetchCal_error {t : Transport} {f : Fault} (h : t.fetchCal = .error f) :
    (f = .transportNeverAnswers ∨ f = .answerTooLong) ∧ ¬ t.CalArrives := by
  unfold Transport.fetchCal at h
  split at h
  · next hr => cases h; exact Answer.receive_error hr
  · cases h

/-- A FetchSmp that does not return has an answer that does not arrive. -/
theorem Transport.fetchSmp_error {t : Transport} {f : Fault} (h : t.fetchSmp = .error f) :
    (f = .transportNeverAnswers ∨ f = .answerTooLong) ∧ ¬ t.SmpArrives := by
  unfold Transport.fetchSmp at h
  split at h
  · next hr => cases h; exact Answer.receive_error hr
  · cases h

/-- A FetchCal whose answer never comes does not return. -/
theorem Transport.fetchCal_never {t : Transport} (h : t.calAnswer = .never) :
    t.fetchCal = .error .transportNeverAnswers := by
  rw [Transport.fetchCal, h]
  rfl

/-- A FetchSmp whose answer never comes does not return. -/
theorem Transport.fetchSmp_never {t : Transport} (h : t.smpAnswer = .never) :
    t.fetchSmp = .error .transportNeverAnswers := by
  rw [Transport.fetchSmp, h]
  rfl

end Sys2Proof.Machine
end

