-- ==== Sys2Proof/Laws/Poll.lean ====
section
/-! SUPPORT. What a poll can do, said once (47_commands.md R212): it is not ready, or its sample is incomplete, or it
compensates a complete sample. And what BEGIN can do (R211). -/

namespace Sys2Proof.Machine

variable {celsius : Bool} {unit : PressureUnit} {want : Want} {s s' : State} {o : Reading} {t : Transport}
  {commit : Reading → State → State}

/-- A poll before BEGIN (47_commands.md R212, decision D11). -/
theorem poll_notReady (h : s.session = .uninitialized) :
    poll celsius unit want s = .ok (.failed .notReady, s.transport) := by
  simp [poll, h]

/-- A poll whose sample is short (60_exceptions.md R242). -/
theorem poll_incomplete {bytes : List Byte} (h : s.session = .ready) (hf : s.transport.fetchSmp = .ok (bytes, t))
    (hlen : bytes.length ≠ Config.smpLen) : poll celsius unit want s = .ok (.failed .incompleteSample, t) := by
  simp [poll, h, hf, completeBlock_eq_none_iff.mpr hlen]

/-- A poll of a complete sample (47_commands.md R212). -/
theorem poll_samples {cal : CalBlock} {smp : SmpBlock} (h : s.Samples cal smp t) :
    poll celsius unit want s =
      .ok (compensate celsius unit want (decodeCal s.h45Ext cal) (decodeSmp smp), t) := by
  obtain ⟨hready, hcal, hsmp⟩ := h
  simp only [poll, hready, hsmp, hcal]
  rw [show completeBlock Config.smpLen smp.toList = some smp from completeBlock_toList smp]

/-- Everything a poll that answers can do. -/
theorem poll_cases (h : poll celsius unit want s = .ok (o, t)) :
    (s.session = .uninitialized ∧ o = .failed .notReady ∧ t = s.transport) ∨
      (∃ bytes, s.session = .ready ∧ s.transport.fetchSmp = .ok (bytes, t) ∧ bytes.length ≠ Config.smpLen ∧
        o = .failed .incompleteSample) ∨
      (∃ cal smp, s.Samples cal smp t ∧
        o = compensate celsius unit want (decodeCal s.h45Ext cal) (decodeSmp smp)) := by
  unfold poll at h
  split at h
  · next hs => cases h; exact .inl ⟨hs, rfl, rfl⟩
  · next hs =>
    split at h
    · cases h
    · next bytes t' hf =>
      split at h
      · next hb => cases h; exact .inr (.inl ⟨bytes, hs, hf, completeBlock_eq_none_iff.mp hb, rfl⟩)
      · next smp hb =>
        split at h
        · cases h
        · next cal hcal =>
          cases h
          obtain rfl := completeBlock_eq_some_iff.mp hb
          exact .inr (.inr ⟨cal, smp, ⟨hs, hcal, hf⟩, rfl⟩)

/-- A poll that does not answer is Ready and lacks its sample's answer or a byte of CAL. -/
theorem poll_error {f : Fault} (h : poll celsius unit want s = .error f) :
    s.session = .ready ∧ (s.transport.fetchSmp = .error f ∨ calBlock s.cal = .error f) := by
  unfold poll at h
  split at h
  · cases h
  · next hs =>
    split at h
    · next hf => cases h; exact ⟨hs, .inl hf⟩
    · split at h
      · cases h
      · split at h
        · next hcal => cases h; exact ⟨hs, .inr hcal⟩
        · cases h

/-- A command that polls answers the poll's reading, its result registers written, STATUS.ERR last. -/
theorem runPoll_ok (h : poll celsius unit want s = .ok (o, t)) :
    runPoll celsius unit want commit s = .next ((commit o { s with transport := t }).setErr o.err) := by
  simp [runPoll, h]

theorem runPoll_next (h : runPoll celsius unit want commit s = .next s') :
    ∃ o t, poll celsius unit want s = .ok (o, t) ∧ s' = (commit o { s with transport := t }).setErr o.err := by
  unfold runPoll at h
  split at h
  · cases h
  · next o t hp => cases h; exact ⟨o, t, hp, rfl⟩

theorem runPoll_fault {f : Fault} (h : runPoll celsius unit want commit s = .fault f) :
    poll celsius unit want s = .error f := by
  unfold runPoll at h
  split at h
  · next hp => cases h; exact hp
  · cases h

theorem runPoll_ne_refused {r : Refusal} : runPoll celsius unit want commit s ≠ .refused r := by
  unfold runPoll
  split <;> simp

/-- Everything a BEGIN that answers can do (47_commands.md R211). -/
theorem execBegin_cases (h : execBegin s = .next s') :
    (s.session = .ready ∧ s' = s.raise .alreadyReady) ∨
      (∃ bytes t, s.session = .uninitialized ∧ (s.transport.pushCfg s.cfg).fetchCal = .ok (bytes, t) ∧
        bytes.length ≠ Config.calLen ∧ s' = ({ s with transport := t } : State).raise .incompleteCalibration) ∨
      (∃ (block : CalBlock) (t : Transport), s.session = .uninitialized ∧
        (s.transport.pushCfg s.cfg).fetchCal = .ok (block.toList, t) ∧
        s' = { s with transport := t, cal := s.cal.writeRun 0 block.toList, session := .ready, err := .ok }) := by
  unfold execBegin at h
  split at h
  · next hs => cases h; exact .inl ⟨hs, rfl⟩
  · next hs =>
    split at h
    · cases h
    · next bytes t hf =>
      cases h
      unfold loadCalibration
      split
      · next hb => exact .inr (.inl ⟨bytes, t, hs, hf, completeBlock_eq_none_iff.mp hb, rfl⟩)
      · next block hb =>
        obtain rfl := completeBlock_eq_some_iff.mp hb
        exact .inr (.inr ⟨block, t, hs, hf, rfl⟩)

theorem execBegin_fault {f : Fault} (h : execBegin s = .fault f) :
    s.session = .uninitialized ∧ (s.transport.pushCfg s.cfg).fetchCal = .error f := by
  unfold execBegin at h
  split at h
  · cases h
  · next hs =>
    split at h
    · next hf => cases h; exact ⟨hs, hf⟩
    · cases h

theorem execBegin_ne_refused {r : Refusal} : execBegin s ≠ .refused r := by
  unfold execBegin
  split
  · simp
  · split <;> simp

end Sys2Proof.Machine
end

