-- ==== Sys2Proof/Laws/Exec.lean ====
section
/-! SUPPORT. One lemma per arm of exec, and what every command that polls does to the fields that are no result registers. -/

namespace Sys2Proof.Machine

theorem exec_beginSession (s : State) : exec .beginSession s = execBegin s := rfl

theorem exec_readT (celsius : Bool) (s : State) :
    exec (.readT celsius) s =
      runPoll celsius .pa { t := true } (fun o s => { s with resT := o.t.toReg }) s := rfl

theorem exec_readP (unit : PressureUnit) (s : State) :
    exec (.readP unit) s = runPoll true unit { p := true } (fun o s => { s with resP := o.p.toReg }) s := rfl

theorem exec_readH (s : State) :
    exec .readH s = runPoll true .pa { h := true } (fun o s => { s with resH := o.h.toReg }) s := rfl

theorem exec_readAll (metric : Bool) (unit : PressureUnit) (s : State) :
    exec (.readAll metric unit) s =
      runPoll metric unit { t := true, p := true, h := true }
        (fun o s => { s with resT := o.t.toReg, resP := o.p.toReg, resH := o.h.toReg }) s := rfl

theorem exec_alt (metric : Bool) (s : State) :
    exec (.alt metric) s =
      runPoll true .pa { p := true } (fun o s => { s with resD := some (altitude o.p.fl s.slp metric) }) s := rfl

theorem exec_dew (metric : Bool) (s : State) :
    exec (.dew metric) s =
      runPoll metric .pa { t := true, h := true }
        (fun o s => { s with resD := some (dewPoint o.t.fl o.h.fl metric) }) s := rfl

/-- A command that polls and answers: its poll answered, and outside the result registers only STATUS.ERR and the transport
changed. -/
theorem exec_poll_next {i : Instr} (hi : i ≠ .beginSession) {s t : State} (h : exec i s = .next t) :
    ∃ celsius unit want o tr, poll celsius unit want s = .ok (o, tr) ∧ t.transport = tr ∧ t.err = o.err ∧
      t.session = s.session ∧ t.cal = s.cal ∧ t.h45Ext = s.h45Ext ∧ t.slp = s.slp ∧ t.cfg = s.cfg ∧
      t.queue = s.queue := by
  cases i with
  | beginSession => exact absurd rfl hi
  | readT celsius =>
    obtain ⟨o, tr, hp, rfl⟩ := runPoll_next (exec_readT celsius s ▸ h)
    exact ⟨_, _, _, o, tr, hp, rfl, rfl, rfl, rfl, rfl, rfl, rfl, rfl⟩
  | readP unit =>
    obtain ⟨o, tr, hp, rfl⟩ := runPoll_next (exec_readP unit s ▸ h)
    exact ⟨_, _, _, o, tr, hp, rfl, rfl, rfl, rfl, rfl, rfl, rfl, rfl⟩
  | readH =>
    obtain ⟨o, tr, hp, rfl⟩ := runPoll_next (exec_readH s ▸ h)
    exact ⟨_, _, _, o, tr, hp, rfl, rfl, rfl, rfl, rfl, rfl, rfl, rfl⟩
  | readAll metric unit =>
    obtain ⟨o, tr, hp, rfl⟩ := runPoll_next (exec_readAll metric unit s ▸ h)
    exact ⟨_, _, _, o, tr, hp, rfl, rfl, rfl, rfl, rfl, rfl, rfl, rfl⟩
  | alt metric =>
    obtain ⟨o, tr, hp, rfl⟩ := runPoll_next (exec_alt metric s ▸ h)
    exact ⟨_, _, _, o, tr, hp, rfl, rfl, rfl, rfl, rfl, rfl, rfl, rfl⟩
  | dew metric =>
    obtain ⟨o, tr, hp, rfl⟩ := runPoll_next (exec_dew metric s ▸ h)
    exact ⟨_, _, _, o, tr, hp, rfl, rfl, rfl, rfl, rfl, rfl, rfl, rfl⟩

/-- A command that polls and faults has a poll that faults. -/
theorem exec_poll_fault {i : Instr} (hi : i ≠ .beginSession) {s : State} {f : Fault} (h : exec i s = .fault f) :
    ∃ celsius unit want, poll celsius unit want s = .error f := by
  cases i with
  | beginSession => exact absurd rfl hi
  | readT celsius => exact ⟨_, _, _, runPoll_fault (exec_readT celsius s ▸ h)⟩
  | readP unit => exact ⟨_, _, _, runPoll_fault (exec_readP unit s ▸ h)⟩
  | readH => exact ⟨_, _, _, runPoll_fault (exec_readH s ▸ h)⟩
  | readAll metric unit => exact ⟨_, _, _, runPoll_fault (exec_readAll metric unit s ▸ h)⟩
  | alt metric => exact ⟨_, _, _, runPoll_fault (exec_alt metric s ▸ h)⟩
  | dew metric => exact ⟨_, _, _, runPoll_fault (exec_dew metric s ▸ h)⟩

/-- No command is refused. -/
theorem exec_ne_refused (i : Instr) (s : State) (r : Refusal) : exec i s ≠ .refused r := by
  cases i with
  | beginSession => exact execBegin_ne_refused
  | readT celsius => rw [exec_readT]; exact runPoll_ne_refused
  | readP unit => rw [exec_readP]; exact runPoll_ne_refused
  | readH => rw [exec_readH]; exact runPoll_ne_refused
  | readAll metric unit => rw [exec_readAll]; exact runPoll_ne_refused
  | alt metric => rw [exec_alt]; exact runPoll_ne_refused
  | dew metric => rw [exec_dew]; exact runPoll_ne_refused

/-- Everything a step that answers can do: it waits, or it performs the decoded command, or it reports an illegal word. -/
theorem step_cases {s t : State} (h : step s = .next t) :
    (s.queue = [] ∧ t = s) ∨
      ∃ r rest, s.queue = r :: rest ∧
        ((∃ i, decode r.word = .ok i ∧ exec i (s.present r rest) = .next t) ∨
          (∃ e, decode r.word = .error e ∧ t = illegalCommand (s.present r rest))) := by
  unfold step at h
  split at h
  · next hq => cases h; exact .inl ⟨hq, rfl⟩
  · next r rest hq =>
    refine .inr ⟨r, rest, hq, ?_⟩
    split at h
    · next i hi => exact .inl ⟨i, hi, h⟩
    · next e he => cases h; exact .inr ⟨e, he, rfl⟩

/-- A block of CAL that cannot be read lacks a byte: its fault is never that of the host's read. -/
theorem calReadRun_ne_readNoValue (m : Memory) (n : Nat) : calReadRun m n ≠ .error .readNoValue := by
  induction n with
  | zero => simp [calReadRun]
  | succ n ih =>
    intro h
    unfold calReadRun at h
    split at h
    · next hf => cases h; exact ih hf
    · split at h
      · next hb => cases h; unfold calRead at hb; split at hb <;> [split at hb; skip] <;> cases hb
      · cases h

/-- No command ends in the fault of the host's read (10_state.md R39): no command reads a result register. -/
theorem exec_ne_readNoValue (i : Instr) (s : State) : exec i s ≠ .fault .readNoValue := by
  intro h
  by_cases hi : i = .beginSession
  · subst hi
    have := (Transport.fetchCal_error (execBegin_fault h).2).1
    simp at this
  · obtain ⟨_, _, _, hp⟩ := exec_poll_fault hi h
    rcases (poll_error hp).2 with hf | hc
    · have := (Transport.fetchSmp_error hf).1
      simp at this
    · exact calReadRun_ne_readNoValue _ _ hc

/-- No step ends in the fault of the host's read. -/
theorem step_ne_readNoValue (s : State) : step s ≠ .fault .readNoValue := by
  unfold step
  split
  · simp
  · split
    · exact exec_ne_readNoValue _ _
    · simp

end Sys2Proof.Machine
end

