-- ==== Sys2Proof/Laws/Float.lean ====
section
/-! SUPPORT. The binary32 patterns: a packed finite number or infinity is no NaN, and F32 gives NaN for NaN alone. -/

namespace Sys2Proof.Machine

theorem one64_pos : 0 < one64 := Nat.two_pow_pos _
theorem top64_pos : 0 < top64 := Nat.two_pow_pos _
theorem top32_pos : 0 < top32 := Nat.two_pow_pos _
theorem unit32_pos : 0 < unit32 := Nat.two_pow_pos _

/-- A count of units shifted right by its excess has at most `prec` binary digits. -/
theorem units_div_lt {prec : Nat} (hp : 0 < prec) (units : Nat) : units / 2 ^ excessBits prec units < 2 ^ prec := by
  rw [Nat.div_lt_iff_lt_mul (Nat.two_pow_pos _), ← Nat.pow_add]
  rcases Nat.eq_zero_or_pos units with rfl | hpos
  · exact Nat.two_pow_pos _
  · exact Nat.lt_of_lt_of_le Nat.lt_log2_self (Nat.pow_le_pow_right (by decide) (by unfold excessBits; omega))

/-- A multiple of the unit is its own nearest multiple. -/
theorem nearestEven_mul {den : Nat} (hden : 0 < den) (c : Nat) : nearestEven (c * den) den = c := by
  simp only [nearestEven, Nat.mul_div_cancel c hden, Nat.mul_mod_left]
  rw [if_neg (by omega)]

/-- A quotient that is a number the format holds is its own rounding. -/
theorem roundUnits_exact {prec den k : Nat} (hden : 0 < den) (hk : 2 ^ excessBits prec k ∣ k) :
    roundUnits prec (k * den) den = k := by
  obtain ⟨c, hc⟩ := hk
  simp only [roundUnits, Nat.mul_div_cancel k hden]
  generalize 2 ^ excessBits prec k = unit at hc ⊢
  subst hc
  rcases Nat.eq_zero_or_pos unit with rfl | hunit
  · simp
  · rw [show unit * c * den = c * (den * unit) by ring, nearestEven_mul (Nat.mul_pos hden hunit), Nat.mul_comm]

/-- The pattern of a number below the overflow bound lies below the pattern of infinity. -/
theorem packUnits24_lt {units : Nat} (h : units < top32) : packUnits 24 units < 0x7F800000 := by
  have hdiv := units_div_lt (prec := 24) (by decide) units
  have hsh : excessBits 24 units ≤ 253 := by
    rcases Nat.eq_zero_or_pos units with rfl | hpos
    · decide
    · have : units.log2 < topExp32 := (Nat.log2_lt (Nat.pos_iff_ne_zero.mp hpos)).mpr h
      have : topExp32 = 277 := by rw [topExp32]
      unfold excessBits
      omega
  simp only [packUnits]
  omega

/-- The low 31 bits of a packed binary32 are at most those of infinity. -/
theorem packF32_low_le (units : Nat) :
    (if units < top32 then packUnits 24 units else 0x7F800000) ≤ 0x7F800000 := by
  split
  · next h => exact Nat.le_of_lt (packUnits24_lt h)
  · exact Nat.le_refl _

/-- A NaN has the exponent 255 and a fraction that is not zero: as a number without its sign, it lies above infinity. -/
theorem isNaN_iff (b : F32) : isNaN b = true ↔ 0x7F800000 < b.toNat % 2 ^ 31 := by
  unfold isNaN
  simp only [Bool.and_eq_true, beq_iff_eq, bne_iff_ne, ne_eq, ← BitVec.toNat_inj, BitVec.extractLsb'_toNat,
    Nat.shiftRight_eq_div_pow, BitVec.toNat_ofNat]
  have := b.isLt
  omega

theorem toNat_packF32_mod (neg : Bool) (units : Nat) :
    (packF32 neg units).toNat % 2 ^ 31 = if units < top32 then packUnits 24 units else 0x7F800000 := by
  have hlow := packF32_low_le units
  generalize hn : (if units < top32 then packUnits 24 units else 0x7F800000) = n at hlow
  unfold packF32
  rw [hn, BitVec.toNat_append, BitVec.toNat_ofNat, Nat.mod_eq_of_lt (show n < 2 ^ 31 by omega),
    ← Nat.shiftLeft_add_eq_or_of_lt (show n < 2 ^ 31 by omega), Nat.shiftLeft_eq]
  omega

/-- A packed number is no NaN. -/
theorem isNaN_packF32 (neg : Bool) (units : Nat) : isNaN (packF32 neg units) = false := by
  rw [Bool.eq_false_iff, ne_eq, isNaN_iff, toNat_packF32_mod]
  have := packF32_low_le units
  omega

theorem isNaN_nan32 : isNaN nan32 = true := by decide

/-- F32 gives a NaN for NaN alone. -/
theorem isNaN_toF32 (x : F64) : isNaN x.toF32 = true ↔ x = .nan := by
  cases x with
  | nan => simp [F64.toF32, isNaN_nan32]
  | inf neg => simp [F64.toF32, isNaN_packF32]
  | fin neg k => simp [F64.toF32, isNaN_packF32]

/-- A rounded quotient is no NaN. -/
theorem F64.round_ne_nan (neg : Bool) (num den : Nat) : F64.round neg num den ≠ .nan := by
  simp only [F64.round]
  split <;> simp

/-- A rounded quotient keeps the sign it was given. -/
theorem F64.round_eq (neg : Bool) (num den : Nat) :
    F64.round neg num den = .inf neg ∨ F64.round neg num den = .fin neg (roundUnits 53 num den) := by
  simp only [F64.round]
  split <;> simp

/-- A finite value that is not zero: a divisor no finite quotient fails on. -/
def F64.finiteNonzero : F64 → Bool
  | .fin _ k => decide (0 < k)
  | .nan | .inf _ => false

/-- A quotient by a finite value other than zero is a NaN for NaN alone. -/
theorem F64.div_ne_nan {x y : F64} (hx : x ≠ .nan) (hy : y.finiteNonzero = true) : x.div y ≠ .nan := by
  cases y with
  | fin b k =>
    have hk : k ≠ 0 := by simpa [F64.finiteNonzero, Nat.pos_iff_ne_zero] using hy
    cases x with
    | nan => exact absurd rfl hx
    | inf a => simp [F64.div]
    | fin a j => simpa [F64.div, hk] using F64.round_ne_nan _ _ _
  | _ => simp [F64.finiteNonzero] at hy

/-- A product with a finite value other than zero is a NaN for NaN alone. -/
theorem F64.mul_ne_nan {x y : F64} (hx : x ≠ .nan) (hy : y.finiteNonzero = true) : x.mul y ≠ .nan := by
  cases y with
  | fin b k =>
    have hk : k ≠ 0 := by simpa [F64.finiteNonzero, Nat.pos_iff_ne_zero] using hy
    cases x with
    | nan => exact absurd rfl hx
    | inf a => simp [F64.mul, hk]
    | fin a j => simpa [F64.mul] using F64.round_ne_nan _ _ _
  | _ => simp [F64.finiteNonzero] at hy

/-- A sum with a finite value is a NaN for NaN alone. -/
theorem F64.add_ne_nan {x y : F64} (hx : x ≠ .nan) (hy : y.finiteNonzero = true) : x.add y ≠ .nan := by
  cases y with
  | fin b k =>
    cases x with
    | nan => exact absurd rfl hx
    | inf a => simp [F64.add]
    | fin a j =>
      simp only [F64.add]
      split
      · simp
      · exact F64.round_ne_nan _ _ _
  | _ => simp [F64.finiteNonzero] at hy

theorem F64.ofRat_ne_nan (neg : Bool) (num den : Nat) : F64.ofRat neg num den ≠ .nan := F64.round_ne_nan _ _ _

/-! The constants of the rules are finite and not zero. -/

theorem ofNat5_finiteNonzero : (F64.ofNat 5).finiteNonzero = true := by decide +kernel
theorem ofNat9_finiteNonzero : (F64.ofNat 9).finiteNonzero = true := by decide +kernel
theorem ofNat32_finiteNonzero : (F64.ofNat 32).finiteNonzero = true := by decide +kernel
theorem ofNat100_finiteNonzero : (F64.ofNat 100).finiteNonzero = true := by decide +kernel
theorem ofNat1000_finiteNonzero : (F64.ofNat 1000).finiteNonzero = true := by decide +kernel
theorem ofNat100000_finiteNonzero : (F64.ofNat 100000).finiteNonzero = true := by decide +kernel
theorem paPerInHg_finiteNonzero : paPerInHg.finiteNonzero = true := by decide +kernel
theorem paPerAtm_finiteNonzero : (dec 10132499766353 8).finiteNonzero = true := by decide +kernel
theorem paPerTorr_finiteNonzero : (dec 13332236534674 11).finiteNonzero = true := by decide +kernel
theorem paPerPsi_finiteNonzero : (dec 6894744825494 9).finiteNonzero = true := by decide +kernel
theorem metresPerFoot_finiteNonzero : (dec 3048 4).finiteNonzero = true := by decide +kernel

/-- TEMP_OUT is never NaN (43_temperature.md R131). -/
theorem isNaN_tempOut (t100 : Word32) (celsius : Bool) : isNaN (tempOut t100 celsius) = false := by
  have hc : F64.ofIntDiv t100.toInt 100 ≠ .nan := F64.ofRat_ne_nan _ _ _
  rw [Bool.eq_false_iff, ne_eq]
  unfold tempOut
  cases celsius
  · simp only [Bool.false_eq_true, if_false]
    rw [isNaN_toF32]
    exact F64.add_ne_nan (F64.div_ne_nan (F64.mul_ne_nan hc ofNat9_finiteNonzero) ofNat5_finiteNonzero)
      ofNat32_finiteNonzero
  · simp only [if_true]
    rw [isNaN_toF32]
    exact hc

/-- PRES_OUT is never NaN. -/
theorem isNaN_presOut (pq8 : Word32) (unit : PressureUnit) : isNaN (presOut pq8 unit) = false := by
  have hpa : F64.ofRat false pq8.toNat 256 ≠ .nan := F64.ofRat_ne_nan _ _ _
  rw [Bool.eq_false_iff, ne_eq]
  cases unit <;> (unfold presOut; dsimp only; rw [isNaN_toF32])
  case pa => exact hpa
  case hpa => exact F64.div_ne_nan hpa ofNat100_finiteNonzero
  case inHg => exact F64.div_ne_nan hpa paPerInHg_finiteNonzero
  case atm => exact F64.div_ne_nan hpa paPerAtm_finiteNonzero
  case bar => exact F64.div_ne_nan hpa ofNat100000_finiteNonzero
  case torr => exact F64.div_ne_nan hpa paPerTorr_finiteNonzero
  case nm2 => exact hpa
  case psi => exact F64.div_ne_nan hpa paPerPsi_finiteNonzero
  case other => exact hpa

/-- HUM_OUT is never NaN (45_humidity.md R173). -/
theorem isNaN_humOut (hq10 : Word32) : isNaN (humOut hq10) = false := by
  rw [Bool.eq_false_iff, ne_eq, humOut, isNaN_toF32]
  exact F64.ofRat_ne_nan _ _ _

/-- F32 of a NaN is NaN32 (46_derived.md R195). -/
theorem toF32_eq_nan32 {x : F64} (h : isNaN x.toF32 = true) : x.toF32 = nan32 := by
  rw [(isNaN_toF32 x).mp h]
  rfl

end Sys2Proof.Machine
end

