-- ==== Sys2Proof/Laws/Memory.lean ====
section
/-! SUPPORT. The laws of CAL's bytes: a read after a write, the canonical form, runs of bytes, and the whole block. -/

namespace Sys2Proof.Machine

theorem Memory.lookup_write_self (a : Nat) (b : Byte) (m : Memory) : (m.write a b).lookup a = some b := by
  induction m with
  | nil => simp [Memory.write, Memory.lookup]
  | cons cell rest ih =>
    obtain ⟨c, d⟩ := cell
    simp only [Memory.write]
    split
    · simp [Memory.lookup]
    · split
      · simp [Memory.lookup]
      · simp [Memory.lookup, *]

theorem Memory.lookup_write_other {a x : Nat} (b : Byte) (m : Memory) (h : x ≠ a) :
    (m.write a b).lookup x = m.lookup x := by
  induction m with
  | nil => simp [Memory.write, Memory.lookup, h]
  | cons cell rest ih =>
    obtain ⟨c, d⟩ := cell
    simp only [Memory.write]
    split
    · simp [Memory.lookup, h]
    · split
      · next hac => subst hac; simp [Memory.lookup, h]
      · simp [Memory.lookup, ih]

/-- An offset in a written memory is the written one or an old one. -/
theorem Memory.mem_write {a : Nat} {b : Byte} {m : Memory} {c : Host.Cell} (h : c ∈ m.write a b) :
    c = (a, b) ∨ c ∈ m := by
  induction m with
  | nil => simpa [Memory.write] using h
  | cons cell rest ih =>
    obtain ⟨k, d⟩ := cell
    simp only [Memory.write] at h
    split at h
    · simpa using h
    · split at h
      · have := List.mem_cons.mp h
        exact this.imp id (List.mem_cons_of_mem _)
      · rcases List.mem_cons.mp h with rfl | h'
        · exact .inr (by simp)
        · exact (ih h').imp id (List.mem_cons_of_mem _)

/-- A write keeps the canonical form. -/
theorem Memory.write_wf {a : Nat} (b : Byte) {m : Memory} (ha : a < Config.calLen) (h : m.wf) :
    Memory.wf (m.write a b) := by
  obtain ⟨hs, hb⟩ := h
  refine ⟨?_, fun c hc => ?_⟩
  · clear hb
    induction m with
    | nil => simp [Memory.write]
    | cons cell rest ih =>
      obtain ⟨k, d⟩ := cell
      obtain ⟨hk, hrest⟩ := List.pairwise_cons.mp hs
      simp only [Memory.write]
      split
      · next hlt =>
        refine List.pairwise_cons.mpr ⟨fun c hc => ?_, hs⟩
        rcases List.mem_cons.mp hc with rfl | hc
        · exact hlt
        · exact Nat.lt_trans hlt (hk c hc)
      · split
        · next heq => subst heq; exact List.pairwise_cons.mpr ⟨hk, hrest⟩
        · next h1 h2 =>
          refine List.pairwise_cons.mpr ⟨fun c hc => ?_, ih hrest⟩
          rcases Memory.mem_write hc with rfl | hc
          · show k < a
            omega
          · exact hk c hc
  · rcases Memory.mem_write hc with rfl | hc
    · exact ha
    · exact hb c hc

/-- A run of writes keeps the canonical form. -/
theorem Memory.writeRun_wf {a : Nat} {bs : List Byte} {m : Memory} (ha : a + bs.length ≤ Config.calLen) (h : m.wf) :
    Memory.wf (m.writeRun a bs) := by
  induction bs generalizing a m with
  | nil => exact h
  | cons b bs ih =>
    simp only [List.length_cons] at ha
    exact ih (by omega) (Memory.write_wf b (by omega) h)

/-- What a run of writes leaves at each offset. -/
theorem Memory.lookup_writeRun (a x : Nat) (bs : List Byte) (m : Memory) :
    (m.writeRun a bs).lookup x = if a ≤ x ∧ x < a + bs.length then bs[x - a]? else m.lookup x := by
  induction bs generalizing a m with
  | nil => simp [Memory.writeRun]
  | cons b bs ih =>
    simp only [Memory.writeRun, ih, List.length_cons]
    rcases Nat.lt_trichotomy x a with hlt | rfl | hgt
    · rw [if_neg (by omega), if_neg (by omega), Memory.lookup_write_other b m (by omega)]
    · rw [if_neg (by omega), if_pos (by omega), Memory.lookup_write_self]; simp
    · by_cases hin : x < a + (bs.length + 1)
      · rw [if_pos (by omega), if_pos (by omega), show x - a = (x - (a + 1)) + 1 by omega, List.getElem?_cons_succ]
      · rw [if_neg (by omega), if_neg (by omega), Memory.lookup_write_other b m (by omega)]

/-- A byte of CAL that holds a value reads as it. -/
theorem calRead_of_lookup {m : Memory} {a : Nat} {b : Byte} (ha : a < Config.calLen) (h : m.lookup a = some b) :
    calRead m a = .ok b := by
  simp [calRead, ha, h]

/-- A run of bytes reads as the bytes at its offsets. -/
theorem calReadRun_ok_iff (m : Memory) (n : Nat) (v : Vector Byte n) :
    calReadRun m n = .ok v ↔ ∀ i (h : i < n), calRead m i = .ok v[i] := by
  induction n with
  | zero =>
    constructor
    · intro _ i h; omega
    · intro _; rw [Vector.eq_empty (xs := v)]; rfl
  | succ n ih =>
    simp only [calReadRun]
    constructor
    · intro h i hi
      split at h
      · cases h
      · next front hfront =>
        split at h
        · cases h
        · next b hb =>
          cases h
          rcases Nat.lt_or_ge i n with hlt | hge
          · rw [(ih front).mp hfront i hlt, Vector.getElem_push_lt hlt]
          · obtain rfl : i = n := by omega
            rw [hb, Vector.getElem_push_eq]
    · intro h
      have hfront : calReadRun m n = .ok v.pop := (ih v.pop).mpr fun i hi => by
        rw [h i (by omega), Vector.getElem_pop]
      have hlast := h n (by omega)
      simp only [hfront, hlast]
      congr
      ext i hi
      rcases Nat.lt_or_ge i n with hlt | hge
      · rw [Vector.getElem_push_lt hlt, Vector.getElem_pop]
      · obtain rfl : i = n := by omega
        rw [Vector.getElem_push_eq]

/-- The block is the bytes at offsets 0 to 31. -/
theorem calBlock_ok_iff (m : Memory) (v : CalBlock) :
    calBlock m = .ok v ↔ ∀ i (h : i < 32), calRead m i = .ok v[i] := calReadRun_ok_iff m 32 v

/-- A whole block written to CAL reads back as it. -/
theorem calBlock_writeRun (m : Memory) (v : CalBlock) : calBlock (m.writeRun 0 v.toList) = .ok v := by
  refine (calBlock_ok_iff _ v).mpr fun i hi => calRead_of_lookup hi ?_
  rw [Memory.lookup_writeRun, if_pos (by simp; omega)]
  simp [hi]

end Sys2Proof.Machine
end

