-- ==== Sys2Proof/Laws/PerInstr.lean ====
section
/-! SUPPORT. Statements about every command as syntax, made and proved one constructor at a time. -/

namespace Sys2Proof.Laws.EncodesLegal

/-- The word of a command is legal: RSV is 0 (30_encoding.md R85) and OP is one of 1 to 7 (R82). -/
def Statement (i : Instr) : Prop :=
  fieldRsv (encode i) = 0 ∧ 1 ≤ (fieldOp (encode i)).toNat ∧ (fieldOp (encode i)).toNat ≤ 7

theorem beginSession : Statement .beginSession := by simp [Statement, encode]

theorem readT (celsius : Bool) : Statement (.readT celsius) := by simp [Statement, encode]

theorem readP (unit : PressureUnit) : Statement (.readP unit) := by simp [Statement, encode]

theorem readH : Statement .readH := by simp [Statement, encode]

theorem readAll (metric : Bool) (unit : PressureUnit) : Statement (.readAll metric unit) := by
  simp [Statement, encode]

theorem alt (metric : Bool) : Statement (.alt metric) := by simp [Statement, encode]

theorem dew (metric : Bool) : Statement (.dew metric) := by simp [Statement, encode]

end Sys2Proof.Laws.EncodesLegal
end

