-- ==== Sys2Proof/Tests/Slice0.lean ====
section
/-! SUPPORT. The model's own tests. Expected values come from spec/95_test_vectors.md and from the encoding tables of
30_encoding.md, never from the model. First the vectors, then for each statement with hypotheses a state and operands
that meet them all. -/

namespace Sys2Proof.Tests

open Sys2Proof.Machine

set_option Elab.async false

/-! ## The fixed inputs of 95_test_vectors.md -/

/-- CAL-A but for P1's two bytes. -/
def calWith (p1Low p1High : Byte) : List Byte :=
  [0x70, 0x6B, 0x43, 0x67, 0x18, 0xFC] ++
  [p1Low, p1High, 0x43, 0xD6, 0xD0, 0x0B, 0x27, 0x0B, 0x8C, 0x00, 0xF9, 0xFF, 0x8C, 0x3C, 0xF8, 0xC6, 0x70, 0x17] ++
  [0x4B] ++ [0x6A, 0x01, 0x00, 0x13, 0x29, 0x03, 0x1E]

def calA : List Byte := calWith 0x7D 0x8E

def calB : List Byte := calWith 0x00 0x00

def calABlock : CalBlock := ⟨calA.toArray, rfl⟩

def calBBlock : CalBlock := ⟨calB.toArray, rfl⟩

def smpA : List Byte := [0x65, 0x5A, 0xC0, 0x7E, 0xED, 0x00, 0x75, 0x30]

def smpABlock : SmpBlock := ⟨smpA.toArray, rfl⟩

/-- SLP of the altitude vectors, 101325.0. -/
def seaLevel : F32 := 0x47C5E680

/-! ## Small states -/

/-- Ready with `cal`, the transport about to answer `smp`. -/
def ready (cal : List Byte) (smp : Answer) : State :=
  { State.reset with
    session := .ready
    cal := Memory.writeRun 0 cal []
    slp := seaLevel
    transport := { cal := [], smp := [smp], draws := 0, log := [] } }

/-- As after reset, the transport about to answer `cal`. -/
def uninit (cal : Answer) : State :=
  { State.reset with transport := { cal := [cal], smp := [], draws := 0, log := [] } }

/-- The transport of `ready` after its one fetch. -/
def fetched : Transport := { cal := [], smp := [], draws := 0, log := [.fetchSmp] }

/-- The state with one word presented. -/
def present (w : Word16) (s : State) : State := s.withFetchWord 16 w.toNat

/-- The step runs to a next state of which `p` holds. -/
def leads (o : Host.Outcome State Fault Refusal) (p : State → Bool) : Bool :=
  match o with
  | .next t => p t
  | .fault _ | .refused _ => false

/-- The word's step from `s` runs to a next state of which `p` holds. -/
def after (s : State) (w : Word16) (p : State → Bool) : Bool := leads (step (present w s)) p

/-! ## Well-formedness refuses (30_encoding.md R84) -/

theorem test_wf_refuses_named_selector : (PressureUnit.other 7).wf = false := by decide

theorem test_wf_refuses_readP : Instr.wf (.readP (.other 0)) = false := by decide

theorem test_wf_refuses_readAll : Instr.wf (.readAll true (.other 6)) = false := by decide

/-! ## Words written out field by field: UNIT, RSV, M, OP (30_encoding.md R81, R82; vectors C-1 to C-17) -/

theorem test_decode_begin : decode 0b00000000_000_0_0001#16 = .ok .beginSession := by rfl

theorem test_decode_begin_ignored_fields : decode 0b10100101_000_1_0001#16 = .ok .beginSession := by rfl

theorem test_decode_readT : decode 0b00000000_000_1_0010#16 = .ok (.readT true) ∧
    decode 0b00000000_000_0_0010#16 = .ok (.readT false) := ⟨rfl, rfl⟩

theorem test_decode_readP : decode 0b00000001_000_0_0011#16 = .ok (.readP .hpa) ∧
    decode 0b11111111_000_0_0011#16 = .ok (.readP (.other 255)) := ⟨rfl, rfl⟩

theorem test_decode_readH : decode 0b00000000_000_1_0100#16 = .ok .readH := by rfl

theorem test_decode_readAll : decode 0b00001000_000_1_0101#16 = .ok (.readAll true (.other 8)) ∧
    decode 0b00000010_000_0_0101#16 = .ok (.readAll false .inHg) := ⟨rfl, rfl⟩

theorem test_decode_alt : decode 0b00000000_000_1_0110#16 = .ok (.alt true) ∧
    decode 0b00000000_000_0_0110#16 = .ok (.alt false) := ⟨rfl, rfl⟩

theorem test_decode_dew : decode 0b00000000_000_1_0111#16 = .ok (.dew true) ∧
    decode 0b00000000_000_0_0111#16 = .ok (.dew false) := ⟨rfl, rfl⟩

theorem test_decode_reserved : decode 0b00000000_000_0_0000#16 = .error (.reservedOp 0) ∧
    decode 0b00000000_000_0_1000#16 = .error (.reservedOp 8) ∧ decode 0b00000000_001_0_0010#16 = .error .reservedBits ∧
    decode 0b00000000_111_1_0001#16 = .error .reservedBits := ⟨rfl, rfl, rfl, rfl⟩

theorem test_decodeTableWord : decodeTableWord 16 0x0713 = some (.readP .psi) := by rfl

theorem test_unit_names : [0, 1, 2, 3, 4, 5, 6, 7].map PressureUnit.ofSelector =
    [.pa, .hpa, .inHg, .atm, .bar, .torr, .nm2, .psi] := by decide

/-! ## Decoders (vectors K-1, K-6, K-7, S-2, S-3) -/

theorem test_decodeCal : (decodeCal .sign calABlock).t1 = 27504 ∧ (decodeCal .sign calABlock).t3.toInt = -1000 ∧
    (decodeCal .sign calABlock).p8.toInt = -14600 ∧ (decodeCal .sign calABlock).h2 = 362 ∧
    (decodeCal .sign calABlock).h4 = 313 ∧ (decodeCal .sign calABlock).h5 = 50 ∧
    (decodeCal .sign calABlock).h6 = 30 := by decide +kernel

theorem test_extend12 : (extend12 .sign 0x800).toInt = -2048 ∧ extend12 .zero 0x800 = 2048 := by decide

theorem test_decodeSmp : decodeSmp smpABlock = { rawP := 415148, rawT := 519888, rawH := 30000 } := by
  decide +kernel

theorem test_decodeSmp_low_nibbles : decodeSmp #v[0x65, 0x5A, 0xCF, 0x7E, 0xED, 0x0F, 0x75, 0x30] =
    { rawP := 415148, rawT := 519888, rawH := 30000 } := by decide +kernel

/-! ## Compensators (vectors T-9, T-11, P-4, P-7, P-U1, H-5, H-10, A-1, A-2, A-5n, W-1, W-2) -/

theorem test_compT_wraps : compT 0xFFFFF 0 0x8000 0 = { tFine := 16, t100 := 0 } := by decide

theorem test_tempOut : tempOut (-1) true = 0xBC23D70A ∧ tempOut (-1) false = 0x41FFDB23 := by decide +kernel

theorem test_compP_wraps : compP 0xFFFFF 128422 (decodeCal .sign calABlock) = some 4293269792 := by decide +kernel

theorem test_presOut : presOut 25767233 .inHg = 0x41EDC8B8 ∧ presOut 25767233 .atm = 0x3F7E4D86 ∧
    presOut 25767233 .bar = 0x3F80D60F ∧ presOut 25767233 .torr = 0x443CBD89 ∧ presOut 25767233 .psi = 0x416993A6 ∧
    presOut 25767233 .nm2 = 0x47C496A0 := by decide +kernel

theorem test_compH_clamps : compH 65535 128422 (decodeCal .sign calABlock) = 102400 ∧
    compH 0 128422 (decodeCal .sign calABlock) = 0 := by decide +kernel

theorem test_altitude : altitude 0x47C35000 seaLevel true = 0x42EE8541 ∧
    altitude 0x47C35000 seaLevel false = 0x43C3A30D := by decide +kernel

/-- Vector W-1 from its logarithm l on: the logarithm itself is a free value. -/
theorem test_dewFromLn : (dewFromLn (F64.ofRat true 5978902692198145 (10 ^ 16)) (F64.ofF32 0x41C8A3D7)).toF32 =
    0x4176871B := by decide +kernel

/-- Vector W-2 from the same logarithm on, with both conversions. -/
theorem test_dewFromLn_fahrenheit : (toFahrenheit (dewFromLn (F64.ofRat true 5978902692198145 (10 ^ 16))
    (toCelsius (F64.ofF32 0x429A49BA)))).toF32 = 0x426EEFFF := by decide +kernel

/-! ## One step of each command (programs P1 to P4, vectors X-1 to X-9) -/

theorem test_begin : after (uninit (.bytes calA)) 0x0001
    (fun t => t.status = 0x0001 ∧ t.cal.map Prod.snd = calA ∧ t.transport.log = [.pushCfg { image := [] }, .fetchCal]) =
    true := by decide +kernel

theorem test_begin_short : after (uninit (.bytes (calA.take 31))) 0x0001
    (fun t => t.status = 0x0010 ∧ t.cal = []) = true := by decide +kernel

theorem test_readT : after (ready calA (.bytes smpA)) 0x0002
    (fun t => t.status = 0x0001 ∧ t.resT = { fl := some 0x429A49BA, fx := some 2508 }) = true := by decide +kernel

theorem test_readT_before_begin : after State.reset 0x0012
    (fun t => t.status = 0x0040 ∧ t.resT = { fl := some 0x7FC00000, fx := none }) = true := by decide +kernel

theorem test_readP : after (ready calA (.bytes smpA)) 0x0103
    (fun t => t.status = 0x0001 ∧ t.resP = { fl := some 0x447BA215, fx := some 25767233 }) = true := by decide +kernel

theorem test_readP_zero_denominator : after (ready calB (.bytes smpA)) 0x0003
    (fun t => t.status = 0x0031 ∧ t.resP = { fl := some 0x7FC00000, fx := none }) = true := by decide +kernel

theorem test_readH : after (ready calA (.bytes smpA)) 0x0004
    (fun t => t.status = 0x0001 ∧ t.resH = { fl := some 0x425BFD00, fx := some 56317 }) = true := by decide +kernel

theorem test_readH_short : after (ready calA (.bytes (smpA.take 7))) 0x0004
    (fun t => t.status = 0x0021 ∧ t.resH = { fl := some 0x7FC00000, fx := none }) = true := by decide +kernel

theorem test_readAll : after (ready calA (.bytes smpA)) 0x0015
    (fun t => t.status = 0x0001 ∧ t.resT.fl = some 0x41C8A3D7 ∧ t.resP.fl = some 0x47C496A0 ∧
      t.resH.fl = some 0x425BFD00 ∧ t.transport.log = [.fetchSmp]) = true := by decide +kernel

theorem test_readAll_zero_denominator : after (ready calB (.bytes smpA)) 0x0115
    (fun t => t.status = 0x0031 ∧ t.resT.fx = some 2508 ∧ t.resP = { fl := some 0x7FC00000, fx := none } ∧
      t.resH.fx = some 56317) = true := by decide +kernel

theorem test_alt : after (ready calA (.bytes smpA)) 0x0016
    (fun t => t.status = 0x0001 ∧ t.resD = some 0x4271D9CF ∧ t.resP = .noValue) = true := by decide +kernel

theorem test_alt_unscaled : after (ready calA (.bytes smpA)) 0x0006
    (fun t => t.resD = some 0x43465E53) = true := by decide +kernel

theorem test_dew_runs : after (ready calA (.bytes smpA)) 0x0017
    (fun t => t.status = 0x0001 ∧ t.resD.isSome ∧ t.resT = .noValue ∧ t.resH = .noValue) = true := by decide +kernel

/-- H-2: raw humidity 0 gives 0 %, whose dew point is NaN32 with no error (46_derived.md R192). -/
theorem test_dew_zero_humidity : after (ready calA (.bytes (smpA.take 6 ++ [0, 0]))) 0x0007
    (fun t => t.status = 0x0001 ∧ t.resD = some 0x7FC00000) = true := by decide +kernel

theorem test_illegal : after (ready calA (.bytes smpA)) 0x0022
    (fun t => t.status = 0x0061 ∧ t.resT = .noValue ∧ t.transport.log = []) = true := by decide +kernel

/-! ## Witnesses: for each statement with hypotheses, a concrete state and operands that meet them together -/

theorem test_witness_DecodeEncodeRoundTrip : (Instr.readAll true (.other 8)).wf = true ∧
    (Instr.readP (.other 255)).wf = true ∧ (Instr.readP .psi).wf = true ∧ Instr.beginSession.wf = true := by decide

/-- Each clause on M and UNIT, and on neither. -/
theorem test_witness_EncodeGivesBackTheReadFields :
    (decode 0xA515 = .ok (.readAll true (.other 0xA5)) ∧ Spec.op 0xA515 ∈ [2, 5, 6, 7] ∧ Spec.op 0xA515 ∈ [3, 5]) ∧
    (decode 0x0513 = .ok (.readP .torr) ∧ Spec.op 0x0513 ∉ [2, 5, 6, 7] ∧ Spec.op 0x0513 ∈ [3, 5]) ∧
    (decode 0xFF17 = .ok (.dew true) ∧ Spec.op 0xFF17 ∈ [2, 5, 6, 7] ∧ Spec.op 0xFF17 ∉ [3, 5]) ∧
    (decode 0xFF14 = .ok .readH ∧ Spec.op 0xFF14 ∉ [2, 5, 6, 7] ∧ Spec.op 0xFF14 ∉ [3, 5]) :=
  ⟨⟨rfl, by decide⟩, ⟨rfl, by decide⟩, ⟨rfl, by decide⟩, ⟨rfl, by decide⟩⟩

/-- A READ_P with M set or clear, and a READ_T with any UNIT. -/
theorem test_witness_IgnoredFieldsHaveNoEffect :
    (Spec.rsv 0x0103 = 0 ∧ Spec.rsv 0x0113 = 0 ∧ Spec.op 0x0103 = Spec.op 0x0113 ∧
      (Spec.op 0x0103 ∈ [2, 5, 6, 7] → Spec.mBit 0x0103 = Spec.mBit 0x0113) ∧
      (Spec.op 0x0103 ∈ [3, 5] → Spec.unitField 0x0103 = Spec.unitField 0x0113)) ∧
    (Spec.rsv 0x0012 = 0 ∧ Spec.rsv 0xFF12 = 0 ∧ Spec.op 0x0012 = Spec.op 0xFF12 ∧
      (Spec.op 0x0012 ∈ [2, 5, 6, 7] → Spec.mBit 0x0012 = Spec.mBit 0xFF12) ∧
      (Spec.op 0x0012 ∈ [3, 5] → Spec.unitField 0x0012 = Spec.unitField 0xFF12)) := by decide

theorem test_witness_StepRunsTheDecodedCommand :
    (present 0x0015 (ready calA (.bytes smpA))).queue =
      { word := 0x0015, slp := seaLevel, cfg := { image := [] } } :: [] ∧
    decode 0x0015 = .ok (.readAll true .pa) := ⟨rfl, rfl⟩

theorem test_witness_StepWaitsWithNothingPresented : (ready calA (.bytes smpA)).queue = [] := rfl

/-- Illegal by OP at both ends of the reserved range, by RSV at both ends, and the legal OP beside each. -/
theorem test_witness_IllegalWord :
    (present 0x0008 State.reset).queue = { word := 0x0008, slp := 0, cfg := { image := [] } } :: [] ∧
    (Spec.IllegalWord 0x0000 ∧ Spec.IllegalWord 0x0008 ∧ Spec.IllegalWord 0x000F) ∧
    (Spec.IllegalWord 0x0021 ∧ Spec.IllegalWord 0x00E7) ∧
    (¬ Spec.IllegalWord 0x0001 ∧ ¬ Spec.IllegalWord 0x0007) := ⟨rfl, by simp [Spec.IllegalWord, Spec.op, Spec.rsv]⟩

theorem test_witness_PresentedWordRunsNext : decode 0x0016 = .ok (.alt true) := rfl

/-- The offsets at the ends of CAL. -/
theorem test_witness_ResetValues : 0 < 32 ∧ 31 < 32 := by decide

/-- All seven fields without a value, and all seven with one. -/
theorem test_witness_ReadOfNoValueFaults :
    (State.reset.resT.fl = none ∧ State.reset.resT.fx = none ∧ State.reset.resP.fl = none ∧
      State.reset.resP.fx = none ∧ State.reset.resH.fl = none ∧ State.reset.resH.fx = none ∧
      State.reset.resD = none) ∧
    (let r : ResReg := { fl := some 0, fx := some 0 }
     let s : State := { State.reset with resT := r, resP := r, resH := r, resD := some 0 }
     s.resT.fl = some 0 ∧ s.resT.fx = some 0 ∧ s.resP.fl = some 0 ∧ s.resP.fx = some 0 ∧ s.resH.fl = some 0 ∧
       s.resH.fx = some 0 ∧ s.resD = some 0) := ⟨by decide, by decide⟩

theorem test_coherent_noValue : ResReg.noValue.Coherent := by simp [ResReg.Coherent, ResReg.noValue]

theorem test_ready_calBlock : calBlock (Memory.writeRun 0 calA []) = .ok calABlock := by rfl

/-- The state Ready with CAL-A is good. -/
theorem test_ready_Inv (smp : Answer) : (ready calA smp).Inv where
  calWf := by
    show Memory.wf (Memory.writeRun 0 calA [])
    decide
  calWhenReady _ := ⟨calABlock, test_ready_calBlock⟩
  calBeforeReady h := by cases h
  resT := ⟨test_coherent_noValue, by intro q h; cases h⟩
  resP := ⟨test_coherent_noValue, by intro q h; cases h⟩
  resH := ⟨test_coherent_noValue, by intro q h; cases h⟩
  resD := by intro v h; cases h

/-- The state before BEGIN is good. -/
theorem test_uninit_Inv (cal : Answer) : (uninit cal).Inv where
  calWf := by
    show Memory.wf []
    decide
  calWhenReady h := by cases h
  calBeforeReady _ := rfl
  resT := ⟨test_coherent_noValue, by intro q h; cases h⟩
  resP := ⟨test_coherent_noValue, by intro q h; cases h⟩
  resH := ⟨test_coherent_noValue, by intro q h; cases h⟩
  resD := by intro v h; cases h

/-- Presenting a word keeps a state good. -/
theorem test_present_Inv {s : State} (w : Word16) (h : s.Inv) : (present w s).Inv where
  calWf := h.calWf
  calWhenReady := h.calWhenReady
  calBeforeReady := h.calBeforeReady
  resT := h.resT
  resP := h.resP
  resH := h.resH
  resD := h.resD

theorem test_leads_next {o : Host.Outcome State Fault Refusal} {p : State → Bool} (h : leads o p = true) :
    ∃ t, o = .next t ∧ p t = true := by
  cases o with
  | next t => exact ⟨t, rfl, h⟩
  | fault f => cases h
  | refused r => cases h

/-- A READ_ALL of SMP-A from the good state Ready with CAL-A. -/
theorem test_witness_StepKeepsTheInvariant :
    (present 0x0015 (ready calA (.bytes smpA))).Inv ∧ ∃ t, step (present 0x0015 (ready calA (.bytes smpA))) = .next t :=
  ⟨test_present_Inv _ (test_ready_Inv _), (test_leads_next test_readAll).imp fun _ h => h.1⟩

/-- Two coefficient files that differ in P4 alone, one pair with P1 = 0 and one without. -/
theorem test_witness_PressureFailsExactlyOnZeroDenominator :
    (let c := decodeCal .sign calABlock
     let c' : Coeffs := { c with p4 := 0 }
     c.p1 = c'.p1 ∧ c.p2 = c'.p2 ∧ c.p3 = c'.p3 ∧ pressureDenominator 128422 c.p1 c.p2 c.p3 ≠ 0) ∧
    (let c := decodeCal .sign calBBlock
     let c' : Coeffs := { c with p4 := 0 }
     c.p1 = c'.p1 ∧ c.p2 = c'.p2 ∧ c.p3 = c'.p3 ∧ pressureDenominator 128422 c.p1 c.p2 c.p3 = 0) := by
  decide +kernel

theorem test_witness_HumidityIsExactAndAtMostHundred : (0 : Word32).toNat ≤ 102400 ∧ (102400 : Word32).toNat ≤ 102400 := by
  decide

/-- 5 in a format of two digits lies halfway between 4 and 6; the even last digit is 4's. -/
theorem test_witness_RoundingIsNearestTiesToEven : 2 ≤ 2 ∧ 0 < 1 ∧ Spec.Holds 2 6 ∧ 6 ≠ roundUnits 2 5 1 ∧
    Spec.dist 5 1 (roundUnits 2 5 1) = Spec.dist 5 1 6 :=
  ⟨by decide, by decide, ⟨3, 1, by decide⟩, by decide, by decide⟩

/-- A divisor that is not 0, a denominator, and both sides of the bound at which binary32 overflows. -/
theorem test_witness_FloatOperationsRoundTheExactResult : 1 ≠ 0 ∧ 0 < 1 ∧ Spec.overflow32 - 1 < Spec.overflow32 ∧
    Spec.overflow32 ≤ Spec.overflow32 := by decide +kernel

/-- The greatest number below each bound does not overflow, and the bound does (00_scope.md R12). -/
theorem test_overflow : F64.round false (Spec.overflow64 - 1) 1 = .fin false (2 ^ 2098 - 2 ^ 2045) ∧
    F64.round true Spec.overflow64 1 = .inf true ∧ (F64.fin false (Spec.overflow32 - 1)).toF32 = 0x7F7FFFFF ∧
    (F64.fin true Spec.overflow32).toF32 = 0xFF800000 := by decide +kernel

/-- Zero, the largest finite pattern of each sign. -/
theorem test_witness_Binary32EntersBinary64Exactly : Spec.Finite32 0 ∧ Spec.Finite32 0x7F7FFFFF ∧
    Spec.Finite32 0xFF7FFFFF := by simp [Spec.Finite32]

/-- The smallest number, the largest, and an infinity. -/
theorem test_witness_Binary64PatternsRoundTrip : F64.ofBits 1 ≠ .nan ∧ F64.ofBits 0x7FEFFFFFFFFFFFFF ≠ .nan ∧
    F64.ofBits 0xFFF0000000000000 ≠ .nan := by decide +kernel

theorem test_witness_EveryOutputNaNIsNaN32 : isNaN F64.nan.toF32 = true ∧ isNaN (altitude nan32 0 true) = true ∧
    isNaN (dewPoint 0 nan32 false) = true := by decide +kernel

/-- Finite patterns at both ends, a pressure above the sea level's, and a NaN on either input. -/
theorem test_witness_AltitudeCorners :
    (Spec.Finite32 0 ∧ Spec.Finite32 0x7F7FFFFF ∧ Spec.Finite32 0xFF7FFFFF) ∧
    (F64.ofF32 0x00000002 = .fin false (2 * unit32) ∧ F64.ofF32 0x00000001 = .fin false (1 * unit32) ∧
      signedUnits false (1 * unit32) < signedUnits false (2 * unit32)) ∧
    (isNaN 0x7F800001 = true ∧ isNaN nan32 = true) := by
  refine ⟨by simp [Spec.Finite32], ?_, by decide⟩
  decide +kernel

/-- Whole blocks, empty answers, and no scripted answer. -/
theorem test_witness_FetchReturnsTheTransportsAnswer :
    (let t : Transport := { cal := [.bytes calA], smp := [.bytes smpA], draws := 0, log := [] }
     t.cal = .bytes calA :: [] ∧ calA.length ≤ 32 ∧ t.smp = .bytes smpA :: [] ∧ smpA.length ≤ 8) ∧
    (let t : Transport := { cal := [.bytes []], smp := [.bytes []], draws := 0, log := [] }
     t.cal = .bytes [] :: [] ∧ ([] : List Byte).length ≤ 32 ∧ t.smp = .bytes [] :: [] ∧ ([] : List Byte).length ≤ 8) ∧
    (State.reset.transport.cal = [] ∧ State.reset.transport.smp = []) := by decide

/-- Each of the four cases: BEGIN before and after it is Ready, a read before and after. -/
theorem test_witness_TransactionsOfEachCommand :
    leads (exec .beginSession (uninit (.bytes calA))) (fun t => t.transport.log.length = 2) = true ∧
    leads (exec .beginSession (ready calA (.bytes smpA))) (fun t => t.transport.log = []) = true ∧
    leads (exec .readH State.reset) (fun t => t.transport.log = []) = true ∧
    leads (exec .readH (ready calA (.bytes smpA))) (fun t => t.transport.log = [.fetchSmp]) = true := by
  decide +kernel

theorem test_witness_BeginLoadsTheCalibration :
    (uninit (.bytes calA)).session = .uninitialized ∧
    ((uninit (.bytes calA)).transport.pushCfg { image := [] }).fetchCal =
      .ok (calA, { cal := [], smp := [], draws := 0, log := [.pushCfg { image := [] }, .fetchCal] }) ∧
    calA.length = 32 := ⟨rfl, rfl, rfl⟩

/-- The longest and the shortest short block. -/
theorem test_witness_BeginWithShortCalibrationFails :
    (uninit (.bytes [])).session = .uninitialized ∧
    (∃ t, ((uninit (.bytes (calA.take 31))).transport.pushCfg { image := [] }).fetchCal = .ok (calA.take 31, t)) ∧
    (∃ t, ((uninit (.bytes [])).transport.pushCfg { image := [] }).fetchCal = .ok ([], t)) ∧
    (calA.take 31).length = 31 ∧ ([] : List Byte).length < 32 := ⟨rfl, ⟨_, rfl⟩, ⟨_, rfl⟩, rfl, by decide⟩

theorem test_witness_BeginWhileReadyChangesNothingElse : (ready calA (.bytes smpA)).session = .ready := rfl

/-- SMP-A over CAL-A: the pressure has a value. -/
theorem test_witness_Samples : (ready calA (.bytes smpA)).Samples calABlock smpABlock fetched ∧
    (let c := decodeCal (ready calA (.bytes smpA)).h45Ext calABlock
     let raw := decodeSmp smpABlock
     compP raw.rawP (compT raw.rawT c.t1 c.t2 c.t3).tFine c = some 25767233) :=
  ⟨⟨rfl, test_ready_calBlock, rfl⟩, by decide +kernel⟩

/-- SMP-A over CAL-B: the pressure fails. -/
theorem test_witness_Samples_zero_denominator : (ready calB (.bytes smpA)).Samples calBBlock smpABlock fetched ∧
    (let c := decodeCal (ready calB (.bytes smpA)).h45Ext calBBlock
     let raw := decodeSmp smpABlock
     compP raw.rawP (compT raw.rawT c.t1 c.t2 c.t3).tFine c = none) :=
  ⟨⟨rfl, by rfl, rfl⟩, by decide +kernel⟩

theorem test_witness_ReadBeforeBeginReportsNotReady : State.reset.session = .uninitialized := rfl

/-- The longest and the shortest short sample. -/
theorem test_witness_ShortSampleReportsIncompleteSample :
    ((ready calA (.bytes (smpA.take 7))).session = .ready ∧
      (ready calA (.bytes (smpA.take 7))).transport.fetchSmp = .ok (smpA.take 7, fetched) ∧ (smpA.take 7).length = 7) ∧
    ((ready calA (.bytes [])).session = .ready ∧ (ready calA (.bytes [])).transport.fetchSmp = .ok ([], fetched) ∧
      ([] : List Byte).length < 8) := ⟨⟨rfl, rfl, rfl⟩, ⟨rfl, rfl, by decide⟩⟩

/-- Each check failing first, and none. -/
theorem test_witness_FirstFailingCheckIsReported :
    leads (exec .beginSession (ready calA (.bytes smpA))) (fun t => t.err = .alreadyReady) = true ∧
    leads (exec .beginSession (uninit (.bytes []))) (fun t => t.err = .incompleteCalibration) = true ∧
    leads (exec (.readP .pa) State.reset) (fun t => t.err = .notReady) = true ∧
    leads (exec (.readP .pa) (ready calB (.bytes []))) (fun t => t.err = .incompleteSample) = true ∧
    leads (exec (.readP .pa) (ready calB (.bytes smpABlock.toList))) (fun t => t.err = .divisionByZero) = true ∧
    leads (exec .readH (ready calB (.bytes smpABlock.toList))) (fun t => t.err = .ok) = true := by decide +kernel

/-- 6, and both ends of 8 to 255. -/
theorem test_witness_UnnamedUnitsAreReadInPascals :
    ((6 : BitVec 8).toNat = 6 ∨ 8 ≤ (6 : BitVec 8).toNat) ∧ 8 ≤ (8 : BitVec 8).toNat ∧ 8 ≤ (255 : BitVec 8).toNat := by
  decide

/-- Each of the four reads runs. -/
theorem test_witness_ReadsChangeOnlyTheirRegisters :
    leads (exec (.readT true) (ready calA (.bytes smpA))) (fun t => t.err = .ok) = true ∧
    leads (exec (.readP .hpa) (ready calA (.bytes smpA))) (fun t => t.err = .ok) = true ∧
    leads (exec .readH (ready calA (.bytes smpA))) (fun t => t.err = .ok) = true ∧
    leads (exec (.readAll false .psi) (ready calA (.bytes smpA))) (fun t => t.err = .ok) = true := by decide +kernel

/-- ALT and DEW run. -/
theorem test_witness_DerivedCommandsChangeOnlyTheirRegister :
    leads (exec (.alt true) (ready calA (.bytes smpA))) (fun t => t.err = .ok) = true ∧
    leads (exec (.dew true) (ready calA (.bytes smpA))) (fun t => t.err = .ok) = true := by decide +kernel

/-- A BEGIN that fails and one that succeeds, and the first offset outside CAL. -/
theorem test_witness_BeginChangesOnlySessionAndCalibration :
    leads (exec .beginSession (uninit (.bytes []))) (fun t => t.err ≠ .ok) = true ∧
    leads (exec .beginSession (uninit (.bytes calA))) (fun t => t.err = .ok) = true ∧ 32 ≤ 32 := by decide +kernel

theorem test_witness_OnlyASuccessfulBeginChangesTheSession :
    after (uninit (.bytes calA)) 0x0001 (fun t => t.session ≠ (uninit (.bytes calA)).session) = true := by
  decide +kernel

/-- No step, and one step of a READ_ALL. -/
theorem test_witness_ReadySessionKeepsItsCoefficients :
    (ready calA (.bytes smpA)).session = .ready ∧
    core.run 0 (ready calA (.bytes smpA)) = .next (ready calA (.bytes smpA)) ∧
    leads (core.run 1 (present 0x0015 (ready calA (.bytes smpA)))) (fun t => t.err = .ok) = true ∧
    calBlock (ready calA (.bytes smpA)).cal = .ok calABlock := ⟨rfl, rfl, by decide +kernel, test_ready_calBlock⟩

/-- Two states that differ in STATUS.ERR and in every result register; a command runs, and one stops in its fetch. -/
theorem test_witness_EarlierOutcomesDoNotInfluenceACommand :
    (∀ a, a = Answer.bytes smpA ∨ a = Answer.never →
      let s₁ := ready calA a
      let r : ResReg := { fl := some 0, fx := some 0 }
      let s₂ : State := { s₁ with err := .divisionByZero, resT := r, resP := r, resH := r, resD := some 0 }
      s₁.session = s₂.session ∧ s₁.cal = s₂.cal ∧ s₁.h45Ext = s₂.h45Ext ∧ s₁.slp = s₂.slp ∧ s₁.cfg = s₂.cfg ∧
        s₁.transport = s₂.transport ∧ s₁.resT ≠ s₂.resT) ∧
    leads (exec (.readT true) (ready calA (.bytes smpA))) (fun t => t.err = .ok) = true ∧
    exec (.readT true) (ready calA .never) = .fault .transportNeverAnswers := by
  refine ⟨?_, by decide +kernel, rfl⟩
  rintro a (rfl | rfl) <;> decide +kernel

/-- A Ready session with a whole sample scripted, and an Uninitialized one with a whole calibration. -/
theorem test_witness_StepCompletesWhenAnswersArrive :
    ((present 0x0015 (ready calA (.bytes smpA))).Inv ∧
      ((present 0x0015 (ready calA (.bytes smpA))).session = .uninitialized →
        (present 0x0015 (ready calA (.bytes smpA))).transport.CalArrives) ∧
      ((present 0x0015 (ready calA (.bytes smpA))).session = .ready →
        (present 0x0015 (ready calA (.bytes smpA))).transport.SmpArrives)) ∧
    ((present 0x0001 (uninit (.bytes calA))).Inv ∧
      ((present 0x0001 (uninit (.bytes calA))).session = .uninitialized →
        (present 0x0001 (uninit (.bytes calA))).transport.CalArrives) ∧
      ((present 0x0001 (uninit (.bytes calA))).session = .ready →
        (present 0x0001 (uninit (.bytes calA))).transport.SmpArrives)) := by
  refine ⟨⟨test_present_Inv _ (test_ready_Inv _), nofun, fun _ => ?_⟩,
    ⟨test_present_Inv _ (test_uninit_Inv _), fun _ => ?_, nofun⟩⟩
  · show smpA.length ≤ 8
    decide
  · show calA.length ≤ 32
    decide

/-- Each session state, each of the two faults. -/
theorem test_witness_StepStopsOnlyInAFetch :
    ((present 0x0001 (uninit .never)).Inv ∧ step (present 0x0001 (uninit .never)) = .fault .transportNeverAnswers) ∧
    ((present 0x0014 (ready calA (.bytes (smpA ++ [0])))).Inv ∧
      step (present 0x0014 (ready calA (.bytes (smpA ++ [0])))) = .fault .answerTooLong) :=
  ⟨⟨test_present_Inv _ (test_uninit_Inv _), rfl⟩, ⟨test_present_Inv _ (test_ready_Inv _), rfl⟩⟩

theorem test_witness_AFetchThatNeverReturnsEndsNoCommand :
    ((uninit .never).session = .uninitialized ∧ (uninit .never).transport.calAnswer = .never) ∧
    (Spec.Polls (.dew true) ∧ (ready calA .never).session = .ready ∧
      (ready calA .never).transport.smpAnswer = .never) := ⟨⟨rfl, rfl⟩, trivial, rfl, rfl⟩

end Sys2Proof.Tests
end

section
/-! The host's read of a result field (10_state.md R38, R39): what `readField` gives, and O13 for the seven fields. -/

namespace Sys2Proof.Machine

theorem readField_eq_error_of_eq_none {α : Type} {o : Option α} (h : o = none) :
    readField o = .error .readNoValue := by
  rw [h, readField_none]

theorem readField_eq_ok_of_eq_some {α : Type} {o : Option α} {v : α} (h : o = some v) : readField o = .ok v := by
  rw [h, readField_some]

/-- Settles O13: each of the seven reads is `readField` of its own field. -/
theorem readOfNoValueFaults : Obligations.ReadOfNoValueFaults := by
  intro s
  constructor
  · rintro _ rfl
    and_intros <;> exact readField_eq_error_of_eq_none
  · intro v
    and_intros <;> exact readField_eq_ok_of_eq_some

end Sys2Proof.Machine
end

section
/-! The fields of a command word as the numbers R88 reads, and the decoder as R88's procedure on them
(30_encoding.md R81, R88). -/

namespace Sys2Proof

theorem toNat_fieldOp_eq_op (w : Word16) : (fieldOp w).toNat = Spec.op w := toNat_fieldOp w

theorem ofNat_op (w : Word16) : BitVec.ofNat 4 (Spec.op w) = fieldOp w := by
  rw [← toNat_fieldOp_eq_op, BitVec.ofNat_toNat, BitVec.setWidth_eq]

theorem ofNat_unitField (w : Word16) : BitVec.ofNat 8 (Spec.unitField w) = fieldUnit w := by
  rw [Spec.unitField, ← toNat_fieldUnit, BitVec.ofNat_toNat, BitVec.setWidth_eq]

theorem mBit_eq_fieldM (w : Word16) : Spec.mBit w = fieldM w := (fieldM_eq w).symm

theorem fieldRsv_eq_zero_iff (w : Word16) : fieldRsv w = 0 ↔ Spec.rsv w = 0 := by
  rw [← BitVec.toNat_inj, toNat_fieldRsv]
  rfl

theorem decode_of_rsv_ne_zero {w : Word16} (h : Spec.rsv w ≠ 0) : decode w = .error .reservedBits :=
  if_pos (mt (fieldRsv_eq_zero_iff w).mp h)

/-- Settles O1: the decoder's fields are the procedure's numbers, and both take the same branch, first on RSV and then
on OP. -/
theorem decodeFollowsTheProcedure : Obligations.DecodeFollowsTheProcedure := by
  intro w
  by_cases hrsv : Spec.rsv w = 0
  case neg => rw [decode_of_rsv_ne_zero hrsv, if_pos hrsv]
  case pos =>
    rw [if_neg (not_not_intro hrsv), mBit_eq_fieldM, ofNat_unitField, ofNat_op, decode,
      if_neg (not_not_intro ((fieldRsv_eq_zero_iff w).mpr hrsv)), toNat_fieldOp_eq_op]
    generalize Spec.op w = op
    match op with
    | 0 | 1 | 2 | 3 | 4 | 5 | 6 | 7 => rfl
    | _ + 8 => rfl

end Sys2Proof
end

section
/-! The calibration decoder on numbers (41_calibration.md R102 to R107): what a byte pair, a shared nibble and an extended
12-bit pattern are as integers, and O16 and O17 for the eighteen coefficients. -/

namespace Sys2Proof

/-- wrapN is the library's balanced remainder modulo 2^N (00_scope.md R10). -/
theorem wrap_eq_bmod {n : Nat} (hn : 0 < n) (x : Int) : Spec.wrap n x = x.bmod (2 ^ n) := by
  have hhalf : ((2 ^ n : Nat) : Int) = 2 * 2 ^ (n - 1) := by
    rw [← pow_succ', Nat.sub_add_cancel hn, Nat.cast_pow, Nat.cast_ofNat]
  have hpos : (0 : Int) < 2 ^ (n - 1) := by positivity
  have hlow := Int.emod_nonneg (x + 2 ^ (n - 1)) (b := 2 ^ n) (by positivity)
  have hhigh := Int.emod_lt_of_pos (x + 2 ^ (n - 1)) (b := 2 ^ n) (by positivity)
  have hcong := Int.dvd_emod_sub_self (x := x + 2 ^ (n - 1)) (m := 2 ^ n)
  refine ((Int.bmod_eq_iff (Nat.two_pow_pos n)).mpr ⟨?_, ?_, ?_⟩).symm
  · rw [Spec.wrap]
    omega
  · rw [Spec.wrap]
    push_cast at hhalf ⊢
    omega
  · rw [Spec.wrap, Nat.cast_pow, Nat.cast_ofNat]
    rwa [sub_sub, add_comm _ x]

/-- A bit vector's signed value is its unsigned one wrapped to its width (00_scope.md R10). -/
theorem toInt_eq_wrap {n : Nat} (hn : 0 < n) (x : BitVec n) : x.toInt = Spec.wrap n x.toNat := by
  rw [wrap_eq_bmod hn, BitVec.toInt_eq_toNat_bmod]

end Sys2Proof

namespace Sys2Proof.Machine

theorem toNat_le16 (low high : Byte) : (le16 low high).toNat = low.toNat + 256 * high.toNat := by
  rw [le16, BitVec.toNat_append, ← Nat.shiftLeft_add_eq_or_of_lt low.isLt, Nat.shiftLeft_eq]
  omega

theorem toInt_le16 (low high : Byte) :
    (le16 low high).toInt = Spec.wrap 16 ((low.toNat + 256 * high.toNat : Nat) : Int) := by
  rw [toInt_eq_wrap (by decide), toNat_le16]

theorem toNat_nibble12 (high : Byte) (low : BitVec 4) : (nibble12 high low).toNat = 16 * high.toNat + low.toNat := by
  rw [nibble12, BitVec.toNat_append, ← Nat.shiftLeft_add_eq_or_of_lt low.isLt, Nat.shiftLeft_eq, Nat.mul_comm]

theorem toNat_lowNibble (b : Byte) : (b.extractLsb' 0 4).toNat = b.toNat % 16 := by
  rw [BitVec.extractLsb'_toNat, Nat.shiftRight_zero]

theorem toNat_highNibble (b : Byte) : (b.extractLsb' 4 4).toNat = b.toNat / 16 := by
  have := b.isLt
  rw [BitVec.extractLsb'_toNat, Nat.shiftRight_eq_div_pow]
  omega

theorem toInt_extend12_sign (h : BitVec 12) : (extend12 .sign h).toInt = Spec.wrap 12 h.toNat := by
  rw [extend12, BitVec.toInt_signExtend_of_le (by decide), toInt_eq_wrap (by decide)]

theorem toInt_extend12_zero (h : BitVec 12) : (extend12 .zero h).toInt = h.toNat := by
  have htoNat : (h.setWidth 16).toNat = h.toNat := BitVec.toNat_setWidth_of_le (by decide)
  have := h.isLt
  rw [extend12, BitVec.toInt_eq_toNat_of_lt (by omega), htoNat]

/-- The 12-bit pattern of H4, as a number (41_calibration.md R107). -/
theorem toNat_nibble12_lowNibble (high shared : Byte) :
    (nibble12 high (shared.extractLsb' 0 4)).toNat = 16 * high.toNat + shared.toNat % 16 := by
  rw [toNat_nibble12, toNat_lowNibble]

/-- The 12-bit pattern of H5, as a number (41_calibration.md R107). -/
theorem toNat_nibble12_highNibble (high shared : Byte) :
    (nibble12 high (shared.extractLsb' 4 4)).toNat = 16 * high.toNat + shared.toNat / 16 := by
  rw [toNat_nibble12, toNat_highNibble]

/-- Settles O16: each coefficient is a byte or `le16` of its two bytes, read unsigned or signed. -/
theorem coefficientsFromTheirBytes : Obligations.CoefficientsFromTheirBytes := by
  intro ext cal
  exact ⟨toNat_le16 _ _, toInt_le16 _ _, toInt_le16 _ _,
    toNat_le16 _ _, toInt_le16 _ _, toInt_le16 _ _, toInt_le16 _ _, toInt_le16 _ _,
    toInt_le16 _ _, toInt_le16 _ _, toInt_le16 _ _, toInt_le16 _ _,
    rfl, rfl, toInt_le16 _ _, toInt_eq_wrap (by decide) _⟩

/-- Settles O17: the two 12-bit numbers of the shared nibbles, extended by H45_EXT. -/
theorem nibbleCoefficientsFromTheirBytes : Obligations.NibbleCoefficientsFromTheirBytes := by
  intro ext cal
  dsimp only
  rw [← toNat_nibble12_lowNibble, ← toNat_nibble12_highNibble]
  cases ext with
  | sign => exact ⟨toInt_extend12_sign _, toInt_extend12_sign _⟩
  | zero => exact ⟨toInt_extend12_zero _, toInt_extend12_zero _⟩

end Sys2Proof.Machine
end

section
/-! A Ready session (10_state.md R34, 41_calibration.md R110): every step keeps SESSION, CAL and H45_EXT, so every run does,
and with them the coefficients (O55). -/

namespace Sys2Proof.Machine

/-- A predicate every step keeps holds at the end of every run from a state that meets it. -/
theorem run_keeps {M : Host.Core} {P : M.State → Prop} (hstep : ∀ s t, P s → M.step s = .next t → P t) {k : Nat}
    {s t : M.State} (hs : P s) (hrun : M.run k s = .next t) : P t := by
  induction k generalizing s with
  | zero => cases hrun; exact hs
  | succ k ih =>
    unfold Host.Core.run at hrun
    split at hrun
    case h_1 s' hnext => exact ih (hstep s s' hs hnext) hrun
    case h_2 => cases hrun
    case h_3 => cases hrun

/-- The session is Ready, and this is all its coefficients are decoded from (41_calibration.md R101, R107). -/
structure State.ReadyWith (cal : Memory) (ext : H45Ext) (s : State) : Prop where
  session : s.session = .ready
  cal : s.cal = cal
  h45Ext : s.h45Ext = ext

variable {cal : Memory} {ext : H45Ext} {s t : State}

theorem State.ReadyWith.present (h : s.ReadyWith cal ext) (r : Request) (rest : List Request) :
    (s.present r rest).ReadyWith cal ext := ⟨h.session, h.cal, h.h45Ext⟩

/-- BEGIN in a Ready session only raises AlreadyReady; no other command writes what the coefficients are decoded from. -/
theorem exec_keeps_readyWith {i : Instr} (h : s.ReadyWith cal ext) (hexec : exec i s = .next t) :
    t.ReadyWith cal ext := by
  obtain ⟨hsession, hcal, hext⟩ := h
  by_cases hi : i = .beginSession
  case pos =>
    subst hi
    obtain ⟨-, rfl⟩ | ⟨_, _, huninit, -⟩ | ⟨_, _, huninit, -⟩ := execBegin_cases (exec_beginSession s ▸ hexec)
    · exact ⟨hsession, hcal, hext⟩
    · cases hsession.symm.trans huninit
    · cases hsession.symm.trans huninit
  case neg =>
    obtain ⟨-, -, -, -, -, -, -, -, hsession', hcal', hext', -⟩ := exec_poll_next hi hexec
    exact ⟨hsession'.trans hsession, hcal'.trans hcal, hext'.trans hext⟩

theorem step_keeps_readyWith (h : s.ReadyWith cal ext) (hstep : step s = .next t) : t.ReadyWith cal ext := by
  obtain ⟨-, rfl⟩ | ⟨r, rest, -, ⟨_, -, hexec⟩ | ⟨_, -, rfl⟩⟩ := step_cases hstep
  · exact h
  · exact exec_keeps_readyWith (h.present r rest) hexec
  · exact ⟨h.session, h.cal, h.h45Ext⟩

/-- Settles O55: a run from a Ready state keeps CAL and H45_EXT, and the coefficients are a function of the two. -/
theorem readySessionKeepsItsCoefficients : Obligations.ReadySessionKeepsItsCoefficients := by
  intro k s t hready hrun
  have hs : s.ReadyWith s.cal s.h45Ext := ⟨hready, rfl, rfl⟩
  obtain ⟨hsession, hcal, hext⟩ := run_keeps (fun _ _ => step_keeps_readyWith) hs hrun
  exact ⟨hsession, hcal, fun block hblock => ⟨block, hcal ▸ hblock, by rw [hext]⟩⟩

end Sys2Proof.Machine
end

section
/-! The sample decoder on numbers (42_sample.md R121 to R123): a concatenation of bit vectors as a number, and O18 for the
three raw words. -/

namespace Sys2Proof.Machine

theorem toNat_append_eq_mul_add {m n : Nat} (high : BitVec m) (low : BitVec n) :
    (high ++ low).toNat = high.toNat * 2 ^ n + low.toNat := by
  rw [BitVec.toNat_append, ← Nat.shiftLeft_add_eq_or_of_lt low.isLt, Nat.shiftLeft_eq]

theorem toNat_be20 (msb lsb xlsb : Byte) :
    (be20 msb lsb xlsb).toNat = msb.toNat * 2 ^ 12 + lsb.toNat * 2 ^ 4 + xlsb.toNat / 16 := by
  rw [be20, toNat_append_eq_mul_add, toNat_append_eq_mul_add, toNat_highNibble]
  omega

/-- Settles O18: the pressure and temperature words are `be20` of their three bytes, the humidity word its two bytes
concatenated. -/
theorem rawWordsFromTheirBytes : Obligations.RawWordsFromTheirBytes := by
  intro smp
  exact ⟨toNat_be20 _ _ _, toNat_be20 _ _ _, toNat_append_eq_mul_add _ _⟩

end Sys2Proof.Machine
end

section
/-! The chains' bit-vector operations are the integer ones wrapped after each operation (00_scope.md R10, R11), for
every width: what the proofs about COMP_T, COMP_P and COMP_H rewrite with. -/

namespace Sys2Proof

variable {n : Nat}

theorem toInt_add_eq_add (hn : 0 < n) (x y : BitVec n) : (x + y).toInt = Spec.add n x.toInt y.toInt := by
  rw [BitVec.toInt_add, Spec.add, wrap_eq_bmod hn]

theorem toInt_sub_eq_sub (hn : 0 < n) (x y : BitVec n) : (x - y).toInt = Spec.sub n x.toInt y.toInt := by
  rw [BitVec.toInt_sub, Spec.sub, wrap_eq_bmod hn]

theorem toInt_mul_eq_mul (hn : 0 < n) (x y : BitVec n) : (x * y).toInt = Spec.mul n x.toInt y.toInt := by
  rw [BitVec.toInt_mul, Spec.mul, wrap_eq_bmod hn]

/-- A left shift moves the unsigned value, which is the signed one modulo 2^n. -/
theorem toInt_shiftLeft_eq_shl (hn : 0 < n) (x : BitVec n) (k : Nat) : (x <<< k).toInt = Spec.shl n x.toInt k := by
  rw [BitVec.toInt_shiftLeft, Nat.shiftLeft_eq, Spec.shl, wrap_eq_bmod hn, BitVec.toInt_eq_toNat_bmod,
    Int.bmod_mul_bmod, Nat.cast_mul, Nat.cast_pow, Nat.cast_ofNat]

theorem toInt_sra_eq_asr (x : BitVec n) (k : Nat) : (sra x k).toInt = Spec.asr x.toInt k := by
  rw [BitVec.toInt_sshiftRight, Int.shiftRight_eq_div_pow, Spec.asr, Nat.cast_pow, Nat.cast_ofNat]

/-- A `u` operand enters a wider chain without change of value (00_scope.md R11). -/
theorem toInt_setWidth_of_lt {m : Nat} (h : m < n) (x : BitVec m) : (x.setWidth n).toInt = x.toNat := by
  have htoNat : (x.setWidth n).toNat = x.toNat := BitVec.toNat_setWidth_of_le h.le
  have hpow : 2 ^ m * 2 ≤ 2 ^ n := pow_succ 2 m ▸ Nat.pow_le_pow_right two_pos h
  have hx := x.isLt
  rw [BitVec.toInt_eq_toNat_of_lt (by omega), htoNat]

end Sys2Proof
end

section
/-! COMP_T and TEMP_OUT (43_temperature.md R130, R131): O20 and O29. -/

namespace Sys2Proof.Machine

/-- Settles O20: operand by operand and operation by operation, the signed value of each bit vector is the
chain's integer. -/
theorem temperatureChainIsTheWrappedFormula : Obligations.TemperatureChainIsTheWrappedFormula := by
  intro rawT t1 t2 t3
  have hraw : (rawT.setWidth 32).toInt = rawT.toNat := toInt_setWidth_of_lt (by decide) rawT
  have ht1 : (t1.setWidth 32).toInt = t1.toNat := toInt_setWidth_of_lt (by decide) t1
  have ht2 : (t2.signExtend 32).toInt = t2.toInt := BitVec.toInt_signExtend_of_le (by decide)
  have ht3 : (t3.signExtend 32).toInt = t3.toInt := BitVec.toInt_signExtend_of_le (by decide)
  have hfive : (5 : Word32).toInt = 5 := rfl
  have hbias : (128 : Word32).toInt = 128 := rfl
  simp only [compT, Spec.tempChain, toInt_add_eq_add, toInt_sub_eq_sub, toInt_mul_eq_mul, toInt_shiftLeft_eq_shl,
    toInt_sra_eq_asr, hraw, ht1, ht2, ht3, hfive, hbias, Nat.ofNat_pos]

theorem tempOut_celsius (q : Word32) : tempOut q true = (F64.ofIntDiv q.toInt 100).toF32 := by
  rw [tempOut, if_pos rfl]

theorem tempOut_fahrenheit (q : Word32) : tempOut q false =
    ((((F64.ofIntDiv q.toInt 100).mul (F64.ofNat 9)).div (F64.ofNat 5)).add (F64.ofNat 32)).toF32 := by
  rw [tempOut, if_neg Bool.false_ne_true, toFahrenheit]

theorem tempOut_zero : tempOut 0 true = 0x00000000 ∧ tempOut 0 false = 0x42000000 := by decide +kernel

/-- Settles O29: the two formulas, `isNaN_tempOut` for both flags, and the two values at T100 = 0. -/
theorem temperatureOutputFollowsItsFormula : Obligations.TemperatureOutputFollowsItsFormula :=
  ⟨tempOut_celsius, tempOut_fahrenheit, isNaN_tempOut, tempOut_zero⟩

end Sys2Proof.Machine
end

section
/-! The end of COMP_P's chain: division toward zero and the truncation to 32 bits (00_scope.md R10, R11), for
every width. -/

namespace Sys2Proof

variable {n : Nat}

/-- The quotient is wrapped as every result is: the least integer divided by −1 leaves the chain's range. -/
theorem toInt_sdiv_eq_wrap (hn : 0 < n) (x y : BitVec n) : (x.sdiv y).toInt = Spec.wrap n (x.toInt.tdiv y.toInt) := by
  rw [BitVec.toInt_sdiv, wrap_eq_bmod hn]

/-- A truncation keeps the signed value modulo the narrower range. -/
theorem toNat_setWidth_eq_toInt_emod {m : Nat} (h : m ≤ n) (x : BitVec n) :
    ((x.setWidth m).toNat : Int) = x.toInt % 2 ^ m := by
  have hdvd : (2 : Int) ^ m ∣ (2 ^ n : Nat) := by exact_mod_cast pow_dvd_pow 2 h
  calc ((x.setWidth m).toNat : Int)
    _ = x.toNat % 2 ^ m := by rw [BitVec.toNat_setWidth, Int.natCast_mod, Nat.cast_pow, Nat.cast_ofNat]
    _ = x.toNat % (2 ^ n : Nat) % 2 ^ m := (Int.emod_emod_of_dvd _ hdvd).symm
    _ = x.toInt % (2 ^ n : Nat) % 2 ^ m := by rw [BitVec.toInt_eq_toNat_bmod, Int.bmod_emod]
    _ = x.toInt % 2 ^ m := Int.emod_emod_of_dvd _ hdvd

end Sys2Proof
end

section
/-! COMP_P and PRES_OUT (44_pressure.md R150, R152): O21 and O30. -/

namespace Sys2Proof.Machine

/-- The sixteen-bit coefficients enter the s64 chain without change of value. -/
theorem toInt_signExtend_coeff (c : BitVec 16) : (c.signExtend 64).toInt = c.toInt :=
  BitVec.toInt_signExtend_of_le (by decide)

theorem toInt_signExtend_tFine (tFine : Word32) : (tFine.signExtend 64).toInt = tFine.toInt :=
  BitVec.toInt_signExtend_of_le (by decide)

theorem toInt_pressureDenominator (tFine : Word32) (p1 p2 p3 : BitVec 16) :
    (pressureDenominator tFine p1 p2 p3).toInt = Spec.pressureDen tFine.toInt p1.toNat p2.toInt p3.toInt := by
  have hp1 : (p1.setWidth 64).toInt = p1.toNat := toInt_setWidth_of_lt (by decide) p1
  have hbias : (128000 : Word64).toInt = 128000 := rfl
  have hone : (0x800000000000 : Word64).toInt = 2 ^ 47 := rfl
  simp only [pressureDenominator, Spec.pressureDen, toInt_add_eq_add, toInt_sub_eq_sub, toInt_mul_eq_mul,
    toInt_shiftLeft_eq_shl, toInt_sra_eq_asr, toInt_signExtend_coeff, toInt_signExtend_tFine, hp1, hbias, hone,
    Nat.ofNat_pos]

/-- The test of 44_pressure.md R151 is the same on bit vectors and on integers. -/
theorem pressureDenominator_eq_zero_iff (tFine : Word32) (p1 p2 p3 : BitVec 16) :
    pressureDenominator tFine p1 p2 p3 = 0 ↔ Spec.pressureDen tFine.toInt p1.toNat p2.toInt p3.toInt = 0 := by
  have hzero : (0 : Word64).toInt = 0 := rfl
  rw [← BitVec.toInt_inj, toInt_pressureDenominator, hzero]

theorem toInt_pressureOffset (tFine : Word32) (p4 p5 p6 : BitVec 16) :
    (pressureOffset tFine p4 p5 p6).toInt =
      let v1 := Spec.sub 64 tFine.toInt 128000
      Spec.add 64 (Spec.add 64 (Spec.mul 64 (Spec.mul 64 v1 v1) p6.toInt) (Spec.shl 64 (Spec.mul 64 v1 p5.toInt) 17))
        (Spec.shl 64 p4.toInt 35) := by
  have hbias : (128000 : Word64).toInt = 128000 := rfl
  simp only [pressureOffset, toInt_add_eq_add, toInt_sub_eq_sub, toInt_mul_eq_mul, toInt_shiftLeft_eq_shl,
    toInt_signExtend_coeff, toInt_signExtend_tFine, hbias, Nat.ofNat_pos]

/-- Settles O21: the two denominators are 0 together, and past that test the signed value of each bit vector is the
chain's integer, operation by operation, up to the truncation at the end. -/
theorem pressureChainIsTheWrappedFormula : Obligations.PressureChainIsTheWrappedFormula := by
  intro rawP tFine c
  have hzero := pressureDenominator_eq_zero_iff tFine c.p1 c.p2 c.p3
  by_cases hd : pressureDenominator tFine c.p1 c.p2 c.p3 = 0
  · have hden := hzero.mp hd
    rw [compP, if_pos hd, Spec.pressureChain, if_pos hden, Option.map_none]
  · have hden := mt hzero.mpr hd
    have hraw : (rawP.setWidth 64).toInt = rawP.toNat := toInt_setWidth_of_lt (by decide) rawP
    have htop : (1048576 : Word64).toInt = 1048576 := rfl
    have hscale : (3125 : Word64).toInt = 3125 := rfl
    rw [compP, if_neg hd, Spec.pressureChain, if_neg hden, Option.map_some,
      toNat_setWidth_eq_toInt_emod (by decide)]
    simp only [toInt_add_eq_add, toInt_sub_eq_sub, toInt_mul_eq_mul, toInt_shiftLeft_eq_shl, toInt_sra_eq_asr,
      toInt_sdiv_eq_wrap, toInt_signExtend_coeff, toInt_pressureDenominator, toInt_pressureOffset, hraw, htop, hscale,
      Nat.ofNat_pos]

/-- Settles O30: selectors 0 to 7 each meet their own row of the table, the others, whose unit is `other`, its last;
`isNaN_presOut` holds for every unit. -/
theorem pressureOutputFollowsTheUnitTable : Obligations.PressureOutputFollowsTheUnitTable := by
  refine ⟨fun q u => ?_, isNaN_presOut⟩
  rw [PressureUnit.ofSelector]
  split
  case h_9 _ _ hhpa hinHg hatm hbar htorr _ hpsi =>
    simp only [presOut, if_neg hhpa, if_neg hinHg, if_neg hatm, if_neg hbar, if_neg htorr, if_neg hpsi]
  all_goals simp [*, presOut, paPerInHg, dec]

end Sys2Proof.Machine
end

section
/-! The end of COMP_H's chain: the clamp, and the shift of a word that is not negative, read without its sign (00_scope.md
R11). -/

namespace Sys2Proof

theorem toNat_sra_eq_asr_of_nonneg {n : Nat} {x : BitVec n} (h : 0 ≤ x.toInt) (k : Nat) :
    ((sra x k).toNat : Int) = Spec.asr x.toInt k := by
  have hmsb : x.msb = false := by rw [BitVec.msb_eq_toInt, decide_eq_false h.not_gt]
  rw [← toInt_sra_eq_asr, BitVec.toInt_eq_toNat_of_msb (BitVec.msb_sshiftRight.trans hmsb)]

end Sys2Proof

namespace Sys2Proof.Machine

theorem toInt_clamp (x lo hi : Word32) : (clamp x lo hi).toInt =
    if x.toInt < lo.toInt then lo.toInt else if hi.toInt < x.toInt then hi.toInt else x.toInt := by
  simp only [clamp, BitVec.slt_iff_toInt_lt, apply_ite BitVec.toInt]

theorem le_toInt_clamp {lo hi : Word32} (h : lo.toInt ≤ hi.toInt) (x : Word32) : lo.toInt ≤ (clamp x lo hi).toInt := by
  rw [toInt_clamp]
  split_ifs <;> omega

end Sys2Proof.Machine
end

section
/-! COMP_H (45_humidity.md R170): O22. -/

namespace Sys2Proof.Machine

/-- The clamp of R171 bounds the word below by 0, so the last shift's word is the same number with and without sign. -/
theorem toNat_compH (rawH : BitVec 16) (tFine : Word32) (c : Coeffs) : ((compH rawH tFine c).toNat : Int) =
    Spec.asr (clamp (humidityUnclamped rawH tFine c) 0 419430400).toInt 12 :=
  toNat_sra_eq_asr_of_nonneg (le_toInt_clamp (lo := 0) (hi := 419430400) (by decide) _) 12

/-- Settles O22: operand by operand and operation by operation, the signed value of each bit vector is the chain's
integer, up to the clamp, which makes it a number without sign. -/
theorem humidityChainIsTheWrappedFormula : Obligations.HumidityChainIsTheWrappedFormula := by
  intro rawH tFine c
  have hraw : (rawH.setWidth 32).toInt = rawH.toNat := toInt_setWidth_of_lt (by decide) rawH
  have hh1 : (c.h1.setWidth 32).toInt = c.h1.toNat := toInt_setWidth_of_lt (by decide) c.h1
  have hh2 : (c.h2.signExtend 32).toInt = c.h2.toInt := BitVec.toInt_signExtend_of_le (by decide)
  have hh3 : (c.h3.setWidth 32).toInt = c.h3.toNat := toInt_setWidth_of_lt (by decide) c.h3
  have hh4 : (c.h4.signExtend 32).toInt = c.h4.toInt := BitVec.toInt_signExtend_of_le (by decide)
  have hh5 : (c.h5.signExtend 32).toInt = c.h5.toInt := BitVec.toInt_signExtend_of_le (by decide)
  have hh6 : (c.h6.signExtend 32).toInt = c.h6.toInt := BitVec.toInt_signExtend_of_le (by decide)
  have hbias : (76800 : Word32).toInt = 76800 := rfl
  have hhalfX : (16384 : Word32).toInt = 16384 := rfl
  have hone : (32768 : Word32).toInt = 32768 := rfl
  have hscale : (2097152 : Word32).toInt = 2097152 := rfl
  have hhalfY : (8192 : Word32).toInt = 8192 := rfl
  have hlow : (0 : Word32).toInt = 0 := rfl
  have hhigh : (419430400 : Word32).toInt = 419430400 := rfl
  simp only [toNat_compH, toInt_clamp, humidityUnclamped, Spec.humidityChain, toInt_add_eq_add, toInt_sub_eq_sub,
    toInt_mul_eq_mul, toInt_shiftLeft_eq_shl, toInt_sra_eq_asr, hraw, hh1, hh2, hh3, hh4, hh5, hh6, hbias, hhalfX, hone,
    hscale, hhalfY, hlow, hhigh, Nat.ofNat_pos]

end Sys2Proof.Machine
end

section
/-! ALTITUDE, and the NaN of every output (46_derived.md R190, R191, R195): O28 and O31. -/

namespace Sys2Proof.Machine

/-- The NaN test of 46_derived.md R190 comes before the arithmetic. -/
theorem altitude_of_isNaN {p slp : F32} (h : isNaN p = true ∨ isNaN slp = true) (metric : Bool) :
    altitude p slp metric = nan32 := by
  rw [altitude, if_pos (Bool.or_eq_true_iff.mpr h)]

theorem altitude_metric {p slp : F32} (h : ¬(isNaN p = true ∨ isNaN slp = true)) :
    altitude p slp true = ((altitudeUnscaled p slp).mul (dec 3048 4)).toF32 := by
  rw [altitude, if_neg (mt Bool.or_eq_true_iff.mp h), if_pos rfl]

theorem altitude_nonmetric {p slp : F32} (h : ¬(isNaN p = true ∨ isNaN slp = true)) :
    altitude p slp false = (altitudeUnscaled p slp).toF32 := by
  rw [altitude, if_neg (mt Bool.or_eq_true_iff.mp h), if_neg Bool.false_ne_true]

/-- Settles O31: a NaN input, then the two flags, whose un-scaled value is the rule's expression. -/
theorem altitudeFollowsItsFormula : Obligations.AltitudeFollowsItsFormula := by
  intro p slp metric
  dsimp only
  by_cases hnan : isNaN p = true ∨ isNaN slp = true
  · rw [altitude_of_isNaN hnan, if_pos hnan]
  · rw [if_neg hnan]
    cases metric with
    | true => rw [altitude_metric hnan, if_pos rfl, altitudeUnscaled, paPerInHg, dec, dec]
    | false => rw [altitude_nonmetric hnan, if_neg Bool.false_ne_true, altitudeUnscaled, paPerInHg, dec]

theorem toF32_eq_nan32_iff (x : F64) : x.toF32 = nan32 ↔ x = .nan := by
  constructor
  · intro h
    exact (isNaN_toF32 x).mp (h ▸ isNaN_nan32)
  · rintro rfl
    rfl

/-- ALTITUDE is an F32 of a binary64 on every branch: NaN32 is the F32 of NaN. -/
theorem altitude_eq_toF32 (p slp : F32) (metric : Bool) : ∃ x : F64, altitude p slp metric = x.toF32 := by
  unfold altitude
  split
  · exact ⟨.nan, rfl⟩
  · split <;> exact ⟨_, rfl⟩

/-- DEWPOINT is an F32 of a binary64 on every branch, whatever the logarithm. -/
theorem dewPoint_eq_toF32 (t h : F32) (metric : Bool) : ∃ x : F64, dewPoint t h metric = x.toF32 := by
  unfold dewPoint
  split
  · exact ⟨.nan, rfl⟩
  · split <;> exact ⟨_, rfl⟩

theorem eq_nan32_of_isNaN_altitude {p slp : F32} {metric : Bool} (h : isNaN (altitude p slp metric) = true) :
    altitude p slp metric = nan32 := by
  obtain ⟨x, hx⟩ := altitude_eq_toF32 p slp metric
  rw [hx] at h ⊢
  exact toF32_eq_nan32 h

theorem eq_nan32_of_isNaN_dewPoint {t h : F32} {metric : Bool} (hnan : isNaN (dewPoint t h metric) = true) :
    dewPoint t h metric = nan32 := by
  obtain ⟨x, hx⟩ := dewPoint_eq_toF32 t h metric
  rw [hx] at hnan ⊢
  exact toF32_eq_nan32 hnan

/-- Settles O28: F32 gives NaN32 for NaN alone and no other NaN, and both derived outputs are F32 of a binary64. -/
theorem everyOutputNaNIsNaN32 : Obligations.EveryOutputNaNIsNaN32 :=
  ⟨toF32_eq_nan32_iff, fun _ => toF32_eq_nan32, fun _ _ _ => eq_nan32_of_isNaN_altitude,
    fun _ _ _ => eq_nan32_of_isNaN_dewPoint⟩

end Sys2Proof.Machine
end

section
/-! The reads that fail before any compensation (60_exceptions.md R242, R244): what a failed reading leaves in a result
register and in RES_D, once for both errors, and O47 and O48. -/

namespace Sys2Proof.Machine

theorem toReg_failed : Output.failed.toReg = Spec.failedReg := rfl

theorem altitude_nan32_left (slp : F32) (metric : Bool) : altitude nan32 slp metric = nan32 :=
  altitude_of_isNaN (.inl isNaN_nan32) metric

/-- The NaN test of 46_derived.md R193 comes before the arithmetic. -/
theorem dewPoint_of_isNaN {t h : F32} (hnan : isNaN t = true ∨ isNaN h = true) (metric : Bool) :
    dewPoint t h metric = nan32 := by
  rw [dewPoint, if_pos (Bool.or_eq_true_iff.mpr hnan)]

theorem dewPoint_nan32_left (h : F32) (metric : Bool) : dewPoint nan32 h metric = nan32 :=
  dewPoint_of_isNaN (.inl isNaN_nan32) metric

/-- When every poll fails with one error, whatever is asked of it, each read leaves its outputs failed, the transport where
the poll left it, and that error. -/
theorem exec_reads_of_poll_failed {s : State} {t : Transport} {e : Err}
    (hpoll : ∀ celsius unit want, poll celsius unit want s = .ok (.failed e, t)) (m : Bool) (u : PressureUnit) :
    exec (.readT m) s = .next { s with transport := t, resT := Spec.failedReg, err := e } ∧
    exec (.readP u) s = .next { s with transport := t, resP := Spec.failedReg, err := e } ∧
    exec .readH s = .next { s with transport := t, resH := Spec.failedReg, err := e } ∧
    exec (.readAll m u) s =
      .next { s with
        transport := t, resT := Spec.failedReg, resP := Spec.failedReg, resH := Spec.failedReg, err := e } ∧
    exec (.alt m) s = .next { s with transport := t, resD := some nan32, err := e } ∧
    exec (.dew m) s = .next { s with transport := t, resD := some nan32, err := e } := by
  refine ⟨?readT, ?readP, ?readH, ?readAll, ?alt, ?dew⟩
  case readT => rw [exec_readT, runPoll_ok (hpoll _ _ _), Reading.failed_t, toReg_failed]; rfl
  case readP => rw [exec_readP, runPoll_ok (hpoll _ _ _), Reading.failed_p, toReg_failed]; rfl
  case readH => rw [exec_readH, runPoll_ok (hpoll _ _ _), Reading.failed_h, toReg_failed]; rfl
  case readAll =>
    rw [exec_readAll, runPoll_ok (hpoll _ _ _), Reading.failed_t, Reading.failed_p, Reading.failed_h, toReg_failed]
    rfl
  case alt =>
    rw [exec_alt, runPoll_ok (hpoll _ _ _), Reading.failed_p, Output.failed_fl, altitude_nan32_left]
    rfl
  case dew =>
    rw [exec_dew, runPoll_ok (hpoll _ _ _), Reading.failed_t, Output.failed_fl, dewPoint_nan32_left]
    rfl

/-- Settles O48: every poll of a short sample fails with IncompleteSample, its fetch used up. -/
theorem shortSampleReportsIncompleteSample : Obligations.ShortSampleReportsIncompleteSample := by
  intro m u s bytes t hready hfetch hlen
  exact exec_reads_of_poll_failed (fun _ _ _ => poll_incomplete hready hfetch hlen.ne) m u

/-- Settles O47: every poll before BEGIN fails with NotReady and leaves the transport as it is. -/
theorem readBeforeBeginReportsNotReady : Obligations.ReadBeforeBeginReportsNotReady := by
  intro m u s huninit
  exact exec_reads_of_poll_failed (fun _ _ _ => poll_notReady huninit) m u

end Sys2Proof.Machine
end

section
/-! The BEGIN that fails (60_exceptions.md R241, R245): O39 and O40. -/

namespace Sys2Proof.Machine

variable {s : State}

theorem loadCalibration_of_incomplete {bytes : List Byte} (h : bytes.length ≠ Config.calLen) :
    loadCalibration bytes s = s.raise .incompleteCalibration := by
  rw [loadCalibration, completeBlock_eq_none_iff.mpr h]

theorem execBegin_of_ready (h : s.session = .ready) : execBegin s = .next (s.raise .alreadyReady) := by
  rw [execBegin, h]

theorem execBegin_of_fetchCal_ok {bytes : List Byte} {t : Transport} (h : s.session = .uninitialized)
    (hfetch : (s.transport.pushCfg s.cfg).fetchCal = .ok (bytes, t)) :
    execBegin s = .next (loadCalibration bytes { s with transport := t }) := by
  simp only [execBegin, h, hfetch]

/-- Settles O39: the fetch returns, and its incomplete block is discarded. -/
theorem beginWithShortCalibrationFails : Obligations.BeginWithShortCalibrationFails := by
  intro s bytes t huninit hfetch hlen
  rw [exec_beginSession, execBegin_of_fetchCal_ok huninit hfetch, loadCalibration_of_incomplete hlen.ne]
  rfl

/-- Settles O40: the session is tested before the transport is used. -/
theorem beginWhileReadyChangesNothingElse : Obligations.BeginWhileReadyChangesNothingElse := by
  intro s hready
  rw [exec_beginSession, execBegin_of_ready hready]
  rfl

end Sys2Proof.Machine
end

section
/-! The state after reset (70_reset_and_hazards.md R270; log 10): a byte without a value leaves CAL's block without one, and
O11. -/

namespace Sys2Proof.Machine

variable {m : Memory}

theorem calRead_of_lookup_none {a : Nat} (ha : a < Config.calLen) (h : m.lookup a = none) :
    calRead m a = .error .calNoValue := by
  simp [calRead, ha, h]

/-- The bytes are read from offset 0 on, so a fault there is the whole run's. -/
theorem calReadRun_succ_of_first_error {f : Fault} (h : calRead m 0 = .error f) (n : Nat) :
    calReadRun m (n + 1) = .error f := by
  induction n with
  | zero => simp [calReadRun, h]
  | succ n ih => rw [calReadRun, ih]

theorem calBlock_of_first_error {f : Fault} (h : calRead m 0 = .error f) : calBlock m = .error f :=
  calReadRun_succ_of_first_error h 31

/-- Settles O11: no offset of the empty CAL is listed, and byte 0 already stops the coefficients' block; SESSION, STATUS and
the result registers are the fields' own reset values. -/
theorem resetValues : Obligations.ResetValues := by
  have hcal : ∀ a, a < 32 → calRead State.reset.cal a = .error .calNoValue :=
    fun _ ha => calRead_of_lookup_none ha rfl
  have hblock : calBlock State.reset.cal = .error .calNoValue := calBlock_of_first_error (hcal 0 (by decide))
  exact ⟨rfl, hcal, hblock, rfl, rfl, rfl, rfl, rfl⟩

end Sys2Proof.Machine
end

section
/-! The fields of a command's word as the spec's numbers, the commands a word can decode to, and the encoder against the
decoder (30_encoding.md R81 to R91): O2, O3, O5 and O6. -/

namespace Sys2Proof

theorem toNat_fieldUnit_eq_unitField (w : Word16) : (fieldUnit w).toNat = Spec.unitField w := toNat_fieldUnit w

@[simp] theorem op_commandWord (op : BitVec 4) (m : Bool) (unit : BitVec 8) :
    Spec.op (commandWord op m unit) = op.toNat := by
  rw [← toNat_fieldOp_eq_op, fieldOp_commandWord]

@[simp] theorem mBit_commandWord (op : BitVec 4) (m : Bool) (unit : BitVec 8) :
    Spec.mBit (commandWord op m unit) = m := by
  rw [mBit_eq_fieldM, fieldM_commandWord]

@[simp] theorem rsv_commandWord (op : BitVec 4) (m : Bool) (unit : BitVec 8) :
    Spec.rsv (commandWord op m unit) = 0 := by
  rw [← fieldRsv_eq_zero_iff, fieldRsv_commandWord]

@[simp] theorem unitField_commandWord (op : BitVec 4) (m : Bool) (unit : BitVec 8) :
    Spec.unitField (commandWord op m unit) = unit.toNat := by
  rw [← toNat_fieldUnit_eq_unitField, fieldUnit_commandWord]

/-- Settles O2: the decoder reads back every field the encoder packed, and the selector of a well-formed unit. -/
theorem decodeEncodeRoundTrip : Obligations.DecodeEncodeRoundTrip := by
  intro i hwf
  cases i with
  | readP unit => simp [encode, decode, PressureUnit.ofSelector_selector (show unit.wf = true from hwf)]
  | readAll metric unit => simp [encode, decode, PressureUnit.ofSelector_selector (show unit.wf = true from hwf)]
  | beginSession | readT _ | readH | alt _ | dew _ => simp [encode, decode]

/-- The commands a legal word decodes to, by OP (30_encoding.md R82). -/
theorem decode_ok_cases {w : Word16} {i : Instr} (h : decode w = .ok i) :
    Spec.rsv w = 0 ∧
      ((Spec.op w = 1 ∧ i = .beginSession) ∨ (Spec.op w = 2 ∧ i = .readT (Spec.mBit w)) ∨
        (Spec.op w = 3 ∧ i = .readP (.ofSelector (fieldUnit w))) ∨ (Spec.op w = 4 ∧ i = .readH) ∨
        (Spec.op w = 5 ∧ i = .readAll (Spec.mBit w) (.ofSelector (fieldUnit w))) ∨
        (Spec.op w = 6 ∧ i = .alt (Spec.mBit w)) ∨ (Spec.op w = 7 ∧ i = .dew (Spec.mBit w))) := by
  rw [decodeFollowsTheProcedure, ofNat_unitField] at h
  split_ifs at h
  all_goals
    cases h
    simp_all only [not_not, and_true, true_or, or_true]

/-- The decoder rejects a word exactly when it is illegal (30_encoding.md R87). -/
theorem decode_error_iff (w : Word16) : (∃ e, decode w = .error e) ↔ Spec.IllegalWord w := by
  rw [decodeFollowsTheProcedure, Spec.IllegalWord]
  split_ifs
  all_goals simp
  all_goals omega

/-- Settles O3: OP fixes the command, and the encoder packs the fields that command was given. -/
theorem encodeGivesBackTheReadFields : Obligations.EncodeGivesBackTheReadFields := by
  intro w i h
  obtain ⟨hrsv, hcases⟩ := decode_ok_cases h
  rcases hcases with ⟨hop, rfl⟩ | ⟨hop, rfl⟩ | ⟨hop, rfl⟩ | ⟨hop, rfl⟩ | ⟨hop, rfl⟩ | ⟨hop, rfl⟩ | ⟨hop, rfl⟩
  all_goals
    simp [hop, hrsv, encode, Instr.wf, PressureUnit.wf_ofSelector, toNat_fieldUnit_eq_unitField]

/-- Settles O5: the decoder evaluated on fifteen words. -/
theorem sampleWordsDecode : Obligations.SampleWordsDecode := by
  unfold Obligations.SampleWordsDecode
  and_intros <;> rfl

/-- UNIT stands in the high byte, above the word of the other fields (30_encoding.md R81). -/
theorem commandWord_eq_or (op : BitVec 4) (m : Bool) (unit : BitVec 8) :
    commandWord op m unit = (unit.setWidth 16 <<< 8) ||| commandWord op m 0 := by
  have hzero : (commandWord op m 0).toNat = 16 * m.toNat + op.toNat := by simp [toNat_commandWord]
  have hlow : (commandWord op m 0).toNat < 2 ^ 8 := by
    have := m.toNat_lt
    omega
  apply BitVec.eq_of_toNat_eq
  rw [BitVec.toNat_or, BitVec.toNat_shiftLeft, BitVec.toNat_setWidth_of_le (by decide), Nat.shiftLeft_eq,
    Nat.mod_eq_of_lt (by omega), ← Nat.shiftLeft_eq, ← Nat.shiftLeft_add_eq_or_of_lt hlow, Nat.shiftLeft_eq,
    hzero, toNat_commandWord]
  omega

/-- Settles O6: the words without a unit are closed terms for each flag; a unit is its selector in the high byte. -/
theorem assemblerWords : Obligations.AssemblerWords := by
  refine ⟨by decide, by decide, fun u => commandWord_eq_or 0x3 false u.selector, fun m u => ?_, by decide⟩
  cases m
  · exact commandWord_eq_or 0x5 false u.selector
  · exact commandWord_eq_or 0x5 true u.selector

end Sys2Proof
end

section
/-! What a step is when a command is presented (47_commands.md R210, R219; log 1, 2): O4 and O7 to O10. -/

namespace Sys2Proof.Machine

variable {s : State} {r : Request} {rest : List Request}

theorem step_of_decode_ok {i : Instr} (hqueue : s.queue = r :: rest) (hdecode : decode r.word = .ok i) :
    step s = exec i (s.present r rest) := by
  simp only [step, hqueue, hdecode]

theorem step_of_decode_error {e : DecodeError} (hqueue : s.queue = r :: rest) (hdecode : decode r.word = .error e) :
    step s = .next (illegalCommand (s.present r rest)) := by
  simp only [step, hqueue, hdecode]

/-- Settles O7: presenting the request is the update the statement writes out. -/
theorem stepRunsTheDecodedCommand : Obligations.StepRunsTheDecodedCommand :=
  fun _ _ _ _ => step_of_decode_ok

/-- Settles O8: the empty queue is the step's first case. -/
theorem stepWaitsWithNothingPresented : Obligations.StepWaitsWithNothingPresented := by
  intro s hqueue
  rw [step, hqueue]

/-- Settles O9: an illegal word is one the decoder rejects, and `illegalCommand` writes STATUS.ERR alone. -/
theorem illegalWordReportsAndChangesNothingElse : Obligations.IllegalWordReportsAndChangesNothingElse := by
  intro s r rest hqueue
  refine ⟨decode_error_iff r.word, fun hillegal => ?_⟩
  obtain ⟨e, he⟩ := (decode_error_iff r.word).mpr hillegal
  rw [step_of_decode_error hqueue he, illegalCommand_eq]
  rfl

theorem tableWord_toNat (w : Word16) : tableWord 16 w.toNat = w := by
  rw [tableWord, Nat.mod_eq_of_lt w.isLt, BitVec.ofNat_toNat, BitVec.setWidth_eq]

/-- Settles O10: the word is at the front of the queue, and presenting it gives back the state it was added to. -/
theorem presentedWordRunsNext : Obligations.PresentedWordRunsNext := by
  intro s w i hdecode
  have hqueue : (s.withFetchWord 16 w.toNat).queue = s.requestOf w :: s.queue := by
    rw [State.withFetchWord_queue, tableWord_toNat]
  rw [step_of_decode_ok hqueue hdecode]
  rfl

/-- Words that decode alike are the same request to a step. -/
theorem step_congr_word {w w' : Word16} (h : decode w = decode w') (s : State) (slp : F32) (cfg : Cfg)
    (rest : List Request) : step { s with queue := { word := w, slp := slp, cfg := cfg } :: rest } =
      step { s with queue := { word := w', slp := slp, cfg := cfg } :: rest } := by
  simp only [step, h]
  rfl

/-- Settles O4: with RSV 0 the procedure branches on OP alone, and each branch names only the fields it reads. -/
theorem ignoredFieldsHaveNoEffect : Obligations.IgnoredFieldsHaveNoEffect := by
  intro w w' s slp cfg rest hrsv hrsv' hop hm hunit
  have hdecode : decode w = decode w' := by
    rw [decodeFollowsTheProcedure w, decodeFollowsTheProcedure w', hrsv, hrsv', ← hop]
    split_ifs
    all_goals simp_all
  exact ⟨hdecode, step_congr_word hdecode s slp cfg rest⟩

end Sys2Proof.Machine
end

section
/-! The invariant (10_state.md R34, R38; 45_humidity.md R171; 46_derived.md R195): it is kept by every output a poll can
have, by BEGIN and so by every step: O14 and O15. -/

namespace Sys2Proof.Machine

theorem toInt_clamp_le {lo hi : Word32} (h : lo.toInt ≤ hi.toInt) (x : Word32) : (clamp x lo hi).toInt ≤ hi.toInt := by
  rw [toInt_clamp]
  split_ifs <;> omega

/-- R171's clamp to 100 % before the last shift: HQ10 is at most 102400. -/
theorem toNat_compH_le (rawH : BitVec 16) (tFine : Word32) (c : Coeffs) : (compH rawH tFine c).toNat ≤ 102400 := by
  have hword := toNat_compH rawH tFine c
  have hclamp : (clamp (humidityUnclamped rawH tFine c) 0 419430400).toInt ≤ 419430400 := toInt_clamp_le (by decide) _
  rw [Spec.asr] at hword
  omega

/-! ## The registers a poll's outputs leave -/

/-- What the invariant asks of RES_T. -/
def ResReg.HoldsTemperature (r : ResReg) : Prop :=
  r.Coherent ∧ ∀ q, r.fx = some q → ∃ celsius, r.fl = some (tempOut q celsius)

/-- What the invariant asks of RES_P. -/
def ResReg.HoldsPressure (r : ResReg) : Prop :=
  r.Coherent ∧ ∀ q, r.fx = some q → ∃ unit, r.fl = some (presOut q unit)

/-- What the invariant asks of RES_H. -/
def ResReg.HoldsHumidity (r : ResReg) : Prop :=
  r.Coherent ∧ ∀ q, r.fx = some q → q.toNat ≤ 102400 ∧ r.fl = some (humOut q)

theorem coherent_noValue : ResReg.noValue.Coherent := ⟨by simp [ResReg.noValue], nofun⟩

theorem coherent_failed : Output.failed.toReg.Coherent :=
  ⟨by simp, by rintro _ ⟨⟩ -; rfl⟩

/-- A value that is no NaN stands beside its fixed-point word. -/
theorem coherent_of_not_nan {fl : F32} (hfl : isNaN fl = false) (fx : Word32) :
    ({ fl := some fl, fx := some fx } : ResReg).Coherent := by
  have hne : fl ≠ nan32 := by
    rintro rfl
    exact Bool.false_ne_true (hfl.symm.trans isNaN_nan32)
  refine ⟨by simp [hne], ?_⟩
  rintro _ ⟨⟩ hnan
  exact absurd (hfl.symm.trans hnan) Bool.false_ne_true

theorem holdsTemperature_failed : Output.failed.toReg.HoldsTemperature := ⟨coherent_failed, nofun⟩

theorem holdsPressure_failed : Output.failed.toReg.HoldsPressure := ⟨coherent_failed, nofun⟩

theorem holdsHumidity_failed : Output.failed.toReg.HoldsHumidity := ⟨coherent_failed, nofun⟩

theorem holdsTemperature_temperature (q : Word32) (celsius : Bool) :
    (Output.temperature q celsius).toReg.HoldsTemperature := by
  refine ⟨coherent_of_not_nan (isNaN_tempOut q celsius) q, ?_⟩
  rintro _ ⟨⟩
  exact ⟨celsius, rfl⟩

theorem holdsPressure_pressure (unit : PressureUnit) (q : Word32) : (Output.pressure unit q).toReg.HoldsPressure := by
  refine ⟨coherent_of_not_nan (isNaN_presOut q unit) q, ?_⟩
  rintro _ ⟨⟩
  exact ⟨unit, rfl⟩

theorem holdsHumidity_humidity {q : Word32} (hq : q.toNat ≤ 102400) : (Output.humidity q).toReg.HoldsHumidity := by
  refine ⟨coherent_of_not_nan (isNaN_humOut q) q, ?_⟩
  rintro _ ⟨⟩
  exact ⟨hq, rfl⟩

/-- Each output of a reading may be put in its register. -/
structure Reading.Sound (o : Reading) : Prop where
  t : o.t.toReg.HoldsTemperature
  p : o.p.toReg.HoldsPressure
  h : o.h.toReg.HoldsHumidity

theorem sound_failed (e : Err) : (Reading.failed e).Sound :=
  ⟨holdsTemperature_failed, holdsPressure_failed, holdsHumidity_failed⟩

/-- An output of a complete sample is computed, or failed where it is not wanted or COMP_P gives none. -/
theorem sound_compensate (celsius : Bool) (unit : PressureUnit) (want : Want) (c : Coeffs) (raw : RawSample) :
    (compensate celsius unit want c raw).Sound := by
  obtain ⟨t, p, h⟩ := want
  refine ⟨?_, ?_, ?_⟩
  · cases t
    · exact holdsTemperature_failed
    · exact holdsTemperature_temperature _ _
  · cases p
    · exact holdsPressure_failed
    · simp only [compensate, if_true]
      cases compP raw.rawP (compT raw.rawT c.t1 c.t2 c.t3).tFine c with
      | none => exact holdsPressure_failed
      | some q => exact holdsPressure_pressure unit q
  · cases h
    · exact holdsHumidity_failed
    · exact holdsHumidity_humidity (toNat_compH_le _ _ _)

variable {celsius : Bool} {unit : PressureUnit} {want : Want} {s t : State} {o : Reading} {tr : Transport}

theorem sound_of_poll_ok (h : poll celsius unit want s = .ok (o, tr)) : o.Sound := by
  obtain ⟨-, rfl, -⟩ | ⟨-, -, -, -, rfl⟩ | ⟨-, -, -, rfl⟩ := poll_cases h
  · exact sound_failed _
  · exact sound_failed _
  · exact sound_compensate _ _ _ _ _

/-! ## The invariant -/

/-- The invariant speaks of SESSION, CAL and the result registers only. -/
theorem State.Inv.of_registers (h : s.Inv) (hsession : t.session = s.session) (hcal : t.cal = s.cal)
    (hT : t.resT.HoldsTemperature) (hP : t.resP.HoldsPressure) (hH : t.resH.HoldsHumidity)
    (hD : ∀ v, t.resD = some v → isNaN v = true → v = nan32) : t.Inv where
  calWf := hcal ▸ h.calWf
  calWhenReady hready := hcal ▸ h.calWhenReady (hsession ▸ hready)
  calBeforeReady huninit := hcal ▸ h.calBeforeReady (hsession ▸ huninit)
  resT := hT
  resP := hP
  resH := hH
  resD := hD

theorem State.Inv.present (h : s.Inv) (r : Request) (rest : List Request) : (s.present r rest).Inv :=
  h.of_registers rfl rfl h.resT h.resP h.resH h.resD

theorem State.Inv.raise (h : s.Inv) (e : Err) : (s.raise e).Inv :=
  h.of_registers rfl rfl h.resT h.resP h.resH h.resD

theorem State.Inv.with_transport (h : s.Inv) (tr : Transport) : ({ s with transport := tr } : State).Inv :=
  h.of_registers rfl rfl h.resT h.resP h.resH h.resD

/-- A whole calibration block fills an empty CAL, and the session is Ready. -/
theorem State.Inv.load (h : s.Inv) (block : CalBlock) :
    ({ s with cal := s.cal.writeRun 0 block.toList, session := .ready, err := .ok } : State).Inv where
  calWf := Memory.writeRun_wf (by simp) h.calWf
  calWhenReady _ := ⟨block, calBlock_writeRun s.cal block⟩
  calBeforeReady := nofun
  resT := h.resT
  resP := h.resP
  resH := h.resH
  resD := h.resD

theorem execBegin_keeps_inv (h : s.Inv) (hexec : execBegin s = .next t) : t.Inv := by
  obtain ⟨-, rfl⟩ | ⟨-, tr, -, -, -, rfl⟩ | ⟨block, tr, -, -, rfl⟩ := execBegin_cases hexec
  · exact h.raise _
  · exact (h.with_transport tr).raise _
  · exact (h.with_transport tr).load block

/-- A command that polls writes sound outputs to their registers, or a derived value, whose NaN is NaN32. -/
theorem exec_keeps_inv {i : Instr} (h : s.Inv) (hexec : exec i s = .next t) : t.Inv := by
  cases i with
  | beginSession => exact execBegin_keeps_inv h hexec
  | readT celsius =>
    obtain ⟨o, tr, hpoll, rfl⟩ := runPoll_next (exec_readT celsius s ▸ hexec)
    exact h.of_registers rfl rfl (sound_of_poll_ok hpoll).t h.resP h.resH h.resD
  | readP unit =>
    obtain ⟨o, tr, hpoll, rfl⟩ := runPoll_next (exec_readP unit s ▸ hexec)
    exact h.of_registers rfl rfl h.resT (sound_of_poll_ok hpoll).p h.resH h.resD
  | readH =>
    obtain ⟨o, tr, hpoll, rfl⟩ := runPoll_next (exec_readH s ▸ hexec)
    exact h.of_registers rfl rfl h.resT h.resP (sound_of_poll_ok hpoll).h h.resD
  | readAll metric unit =>
    obtain ⟨o, tr, hpoll, rfl⟩ := runPoll_next (exec_readAll metric unit s ▸ hexec)
    obtain ⟨ht, hp, hh⟩ := sound_of_poll_ok hpoll
    exact h.of_registers rfl rfl ht hp hh h.resD
  | alt metric =>
    obtain ⟨o, tr, -, rfl⟩ := runPoll_next (exec_alt metric s ▸ hexec)
    refine h.of_registers rfl rfl h.resT h.resP h.resH ?_
    rintro _ ⟨⟩
    exact eq_nan32_of_isNaN_altitude
  | dew metric =>
    obtain ⟨o, tr, -, rfl⟩ := runPoll_next (exec_dew metric s ▸ hexec)
    refine h.of_registers rfl rfl h.resT h.resP h.resH ?_
    rintro _ ⟨⟩
    exact eq_nan32_of_isNaN_dewPoint

/-- Settles O15: a step waits, performs a command or raises IllegalCommand, and each keeps the invariant. -/
theorem stepKeepsTheInvariant : Obligations.StepKeepsTheInvariant := by
  intro s t h hstep
  obtain ⟨-, rfl⟩ | ⟨r, rest, -, ⟨i, -, hexec⟩ | ⟨e, -, rfl⟩⟩ := step_cases hstep
  · exact h
  · exact exec_keeps_inv (h.present r rest) hexec
  · exact (h.present r rest).raise _

/-- Settles O14: no field of the state after reset holds a value, and its session is not Ready. -/
theorem resetMeetsTheInvariant : Obligations.ResetMeetsTheInvariant where
  calWf := ⟨.nil, nofun⟩
  calWhenReady := nofun
  calBeforeReady _ := rfl
  resT := ⟨coherent_noValue, nofun⟩
  resP := ⟨coherent_noValue, nofun⟩
  resH := ⟨coherent_noValue, nofun⟩
  resD := nofun

end Sys2Proof.Machine
end

section
/-! STATUS as a number (10_state.md R37): O12. -/

namespace Sys2Proof.Machine

/-- ERR's code above READY's bit; the reserved fields are 0. -/
theorem toNat_status (s : State) : s.status.toNat = s.err.code.toNat * 16 + s.readyBit.toNat := by
  have hhigh : (0 : BitVec 8).toNat = 0 := rfl
  have hlow : (0 : BitVec 3).toNat = 0 := rfl
  rw [State.status, toNat_append_eq_mul_add, toNat_append_eq_mul_add, toNat_append_eq_mul_add, BitVec.toNat_ofBool,
    hhigh, hlow]
  omega

theorem toNat_readyBit (s : State) : s.readyBit.toNat = if s.session = .ready then 1 else 0 := by
  rw [State.readyBit]
  cases s.session <;> rfl

/-- Settles O12: READY is the number's last bit, and ERR's code is the rest from bit 4 on. -/
theorem statusFields : Obligations.StatusFields := by
  intro s
  have hlt := s.err.code.isLt
  rw [toNat_status, toNat_readyBit]
  refine ⟨?_, ?_, ?_, ?_⟩
  · split_ifs with hready
    · exact iff_of_true (by omega) hready
    · exact iff_of_false (by omega) hready
  · split_ifs <;> omega
  · split_ifs <;> omega
  · trans s.err.code.toNat
    · split_ifs <;> omega
    · cases s.err <;> rfl

end Sys2Proof.Machine
end

section
/-! What a fetch returns and which transactions a command performs (20_memory.md R65, R68, R72; 00_scope.md R13, R19;
log 3, log 14): O36 and O37. -/

namespace Sys2Proof.Machine

variable {t : Transport} {rest : List Answer} {bytes : List Byte}

theorem Answer.receive_bytes {n : Nat} (h : bytes.length ≤ n) : (Answer.bytes bytes).receive n = .ok bytes := if_pos h

/-- A free answer never comes, or is a list the block has room for. -/
theorem Answer.receive_free (n : Nat) (o : Option (List Byte)) :
    (Answer.free n o).receive n = .error .transportNeverAnswers ∨
      ∃ list, list.length ≤ n ∧ (Answer.free n o).receive n = .ok list := by
  cases o with
  | none => exact .inl rfl
  | some list =>
    have hlen := List.length_take_le n list
    exact .inr ⟨list.take n, hlen, Answer.receive_bytes hlen⟩

theorem fetchCal_of_scripted (h : t.cal = .bytes bytes :: rest) (hlen : bytes.length ≤ 32) :
    t.fetchCal = .ok (bytes, { t with cal := rest, log := t.log ++ [.fetchCal] }) := by
  simp only [Transport.fetchCal, Transport.calAnswer, h, List.headD_cons, Answer.receive_bytes hlen, List.tail_cons,
    countDraw]

theorem fetchSmp_of_scripted (h : t.smp = .bytes bytes :: rest) (hlen : bytes.length ≤ 8) :
    t.fetchSmp = .ok (bytes, { t with smp := rest, log := t.log ++ [.fetchSmp] }) := by
  simp only [Transport.fetchSmp, Transport.smpAnswer, h, List.headD_cons, Answer.receive_bytes hlen, List.tail_cons,
    countDraw]

theorem fetchCal_of_unscripted (h : t.cal = []) : t.fetchCal = .error .transportNeverAnswers ∨
    ∃ list, list.length ≤ 32 ∧
      t.fetchCal = .ok (list, { t with draws := t.draws + 1, log := t.log ++ [.fetchCal] }) := by
  have hanswer : t.calAnswer = .free 32 (Config.freeCalAnswer t.draws) := by rw [Transport.calAnswer, h]; rfl
  obtain hnever | ⟨list, hlen, hok⟩ := Answer.receive_free 32 (Config.freeCalAnswer t.draws)
  · exact .inl (by rw [Transport.fetchCal, hanswer, hnever])
  · refine .inr ⟨list, hlen, ?_⟩
    rw [Transport.fetchCal, hanswer, hok, h]
    simp [countDraw]

theorem fetchSmp_of_unscripted (h : t.smp = []) : t.fetchSmp = .error .transportNeverAnswers ∨
    ∃ list, list.length ≤ 8 ∧
      t.fetchSmp = .ok (list, { t with draws := t.draws + 1, log := t.log ++ [.fetchSmp] }) := by
  have hanswer : t.smpAnswer = .free 8 (Config.freeSmpAnswer t.draws) := by rw [Transport.smpAnswer, h]; rfl
  obtain hnever | ⟨list, hlen, hok⟩ := Answer.receive_free 8 (Config.freeSmpAnswer t.draws)
  · exact .inl (by rw [Transport.fetchSmp, hanswer, hnever])
  · refine .inr ⟨list, hlen, ?_⟩
    rw [Transport.fetchSmp, hanswer, hok, h]
    simp [countDraw]

/-- Settles O36: the script's first answer, or the free one where the script is empty, for each of the two fetches. -/
theorem fetchReturnsTheTransportsAnswer : Obligations.FetchReturnsTheTransportsAnswer := by
  intro t
  exact ⟨fun _ _ => fetchCal_of_scripted, fun _ _ => fetchSmp_of_scripted, fetchCal_of_unscripted,
    fetchSmp_of_unscripted⟩

variable {celsius : Bool} {unit : PressureUnit} {want : Want} {s s' : State} {o : Reading}

/-- A poll fetches one sample when the session is Ready, and nothing before; it leaves the calibration's answers. -/
theorem poll_transport (h : poll celsius unit want s = .ok (o, t)) :
    t.cal = s.transport.cal ∧ t.log = s.transport.log ++ if s.session = .ready then [.fetchSmp] else [] := by
  obtain ⟨hsession, -, rfl⟩ | ⟨_, hsession, hfetch, -, -⟩ | ⟨_, _, ⟨hsession, -, hfetch⟩, -⟩ := poll_cases h
  · simp [hsession]
  · obtain ⟨-, hlog, hcal, -⟩ := Transport.fetchSmp_ok hfetch
    exact ⟨hcal, by rw [hlog, if_pos hsession]⟩
  · obtain ⟨-, hlog, hcal, -⟩ := Transport.fetchSmp_ok hfetch
    exact ⟨hcal, by rw [hlog, if_pos hsession]⟩

/-- BEGIN pushes and fetches when the session is not Ready, and leaves the samples' answers. -/
theorem execBegin_transport (h : execBegin s = .next s') :
    s'.transport.smp = s.transport.smp ∧
      s'.transport.log =
        s.transport.log ++ if s.session = .uninitialized then [.pushCfg s.cfg, .fetchCal] else [] := by
  obtain ⟨hsession, rfl⟩ | ⟨_, _, hsession, hfetch, -, rfl⟩ | ⟨_, _, hsession, hfetch, rfl⟩ := execBegin_cases h
  · simp [hsession]
  · obtain ⟨-, hlog, hsmp, -⟩ := Transport.fetchCal_ok hfetch
    exact ⟨hsmp, by simp [hlog, hsession]⟩
  · obtain ⟨-, hlog, hsmp, -⟩ := Transport.fetchCal_ok hfetch
    exact ⟨hsmp, by simp [hlog, hsession]⟩

/-- Settles O37: BEGIN's record by its three ends, every other command's by that of its poll. -/
theorem transactionsOfEachCommand : Obligations.TransactionsOfEachCommand := by
  intro i s t h
  by_cases hi : i = .beginSession
  · subst hi
    rw [(execBegin_transport h).2]
    cases s.session <;> rfl
  · obtain ⟨_, _, _, _, _, hpoll, rfl, -⟩ := exec_poll_next hi h
    rw [(poll_transport hpoll).2]
    cases i with
    | beginSession => exact absurd rfl hi
    | readT _ | readP _ | readH | readAll _ _ | alt _ | dew _ => cases s.session <;> rfl

end Sys2Proof.Machine
end

section
/-! The BEGIN that succeeds, and what no BEGIN changes (47_commands.md R211, 10_state.md R34, R41): O38 and O53. -/

namespace Sys2Proof.Machine

theorem exists_vector_of_length {n : Nat} {bytes : List Byte} (h : bytes.length = n) :
    ∃ v : Vector Byte n, bytes = v.toList := ⟨⟨bytes.toArray, h⟩, rfl⟩

theorem loadCalibration_of_complete (block : CalBlock) (s : State) : loadCalibration block.toList s =
    { s with cal := s.cal.writeRun 0 block.toList, session := .ready, err := .ok } := by
  rw [loadCalibration, completeBlock_toList]

/-- Settles O38: the block BEGIN writes from offset 0 on reads back byte by byte. -/
theorem beginLoadsTheCalibration : Obligations.BeginLoadsTheCalibration := by
  intro s bytes t huninit hfetch hlen
  obtain ⟨block, rfl⟩ := exists_vector_of_length hlen
  have hread := (calBlock_ok_iff _ block).mp (calBlock_writeRun s.cal block)
  refine ⟨s.cal.writeRun 0 block.toList, ?_, fun a ha => ⟨block[a], by simp [ha], hread a ha⟩⟩
  rw [exec_beginSession, execBegin_of_fetchCal_ok huninit hfetch, loadCalibration_of_complete]

/-- Settles O53: the three ends of a BEGIN are updates of SESSION, CAL, STATUS.ERR and the transport, and a whole block
ends below offset 32. -/
theorem beginChangesOnlySessionAndCalibration : Obligations.BeginChangesOnlySessionAndCalibration := by
  intro s t h
  have hsmp := (execBegin_transport h).1
  obtain ⟨-, rfl⟩ | ⟨_, _, -, -, -, rfl⟩ | ⟨block, _, -, -, rfl⟩ := execBegin_cases h
  · exact ⟨rfl, rfl, rfl, rfl, rfl, rfl, rfl, rfl, hsmp, fun _ => ⟨rfl, rfl⟩, fun _ _ => rfl⟩
  · exact ⟨rfl, rfl, rfl, rfl, rfl, rfl, rfl, rfl, hsmp, fun _ => ⟨rfl, rfl⟩, fun _ _ => rfl⟩
  · refine ⟨rfl, rfl, rfl, rfl, rfl, rfl, rfl, rfl, hsmp, fun herr => absurd rfl herr, fun a ha => ?_⟩
    rw [Memory.lookup_writeRun, if_neg (by simp; omega)]

end Sys2Proof.Machine
end

section
/-! The compensation of a complete sample (47_commands.md R212 to R218, 44_pressure.md R151): O23, and O41 to O46. -/

namespace Sys2Proof.Machine

theorem compP_eq_none_iff (rawP : BitVec 20) (tFine : Word32) (c : Coeffs) :
    compP rawP tFine c = none ↔ pressureDenominator tFine c.p1 c.p2 c.p3 = 0 := by
  rw [compP]
  split_ifs with hd
  · simp only [hd]
  · simp only [hd]

/-- The denominator is a product with P1. -/
theorem pressureDenominator_zero_p1 (tFine : Word32) (p2 p3 : BitVec 16) : pressureDenominator tFine 0 p2 p3 = 0 := by
  simp [pressureDenominator]

/-- Settles O23: COMP_P fails with its denominator, of which P4 to P9 and the raw pressure are no part. -/
theorem pressureFailsExactlyOnZeroDenominator : Obligations.PressureFailsExactlyOnZeroDenominator := by
  refine ⟨pressureDenominator_zero_p1, fun rawP rawP' tFine c c' hp1 hp2 hp3 => ⟨compP_eq_none_iff rawP tFine c, ?_⟩⟩
  rw [compP_eq_none_iff, compP_eq_none_iff, hp1, hp2, hp3]

variable {celsius : Bool} {unit : PressureUnit} {want : Want} {c : Coeffs} {raw : RawSample}

/-- DivisionByZero is the only error of a compensation (60_exceptions.md R243). -/
theorem compensate_err (celsius : Bool) (unit : PressureUnit) (want : Want) (c : Coeffs) (raw : RawSample) :
    (compensate celsius unit want c raw).err =
      if want.p = true ∧ compP raw.rawP (compT raw.rawT c.t1 c.t2 c.t3).tFine c = none then .divisionByZero
      else .ok := by
  cases hp : want.p <;> simp [compensate, hp]

theorem compensate_p_of_some {q : Word32} (hwant : want.p = true)
    (hq : compP raw.rawP (compT raw.rawT c.t1 c.t2 c.t3).tFine c = some q) :
    (compensate celsius unit want c raw).p = .pressure unit q := by
  simp [compensate, hwant, hq]

theorem compensate_p_of_none (hnone : compP raw.rawP (compT raw.rawT c.t1 c.t2 c.t3).tFine c = none) :
    (compensate celsius unit want c raw).p = .failed := by
  simp [compensate, hnone]

/-- Settles O41: the temperature output of the one sample. -/
theorem readTempWritesTheTemperature : Obligations.ReadTempWritesTheTemperature := by
  intro celsius s cal smp t h
  rw [exec_readT, runPoll_ok (poll_samples h)]
  rfl

/-- Settles O42: the pressure output and its error, by whether COMP_P gives a value. -/
theorem readPressureWritesThePressure : Obligations.ReadPressureWritesThePressure := by
  intro unit s cal smp t h
  refine ⟨fun q hq => ?_, fun hnone => ?_⟩
  · rw [exec_readP, runPoll_ok (poll_samples h), compensate_err, compensate_p_of_some rfl hq, hq]
    rfl
  · rw [exec_readP, runPoll_ok (poll_samples h), compensate_err, compensate_p_of_none hnone, hnone]
    rfl

/-- Settles O43: the humidity output of the one sample. -/
theorem readHumidityWritesTheHumidity : Obligations.ReadHumidityWritesTheHumidity := by
  intro s cal smp t h
  rw [exec_readH, runPoll_ok (poll_samples h)]
  rfl

/-- Settles O44: the temperature and humidity outputs are there with and without a pressure. -/
theorem readAllWritesThreeOutputsOfOneSample : Obligations.ReadAllWritesThreeOutputsOfOneSample := by
  intro metric unit s cal smp t h
  refine ⟨fun q hq => ?_, fun hnone => ?_⟩
  · rw [exec_readAll, runPoll_ok (poll_samples h), compensate_err, compensate_p_of_some rfl hq, hq]
    rfl
  · rw [exec_readAll, runPoll_ok (poll_samples h), compensate_err, compensate_p_of_none hnone, hnone]
    rfl

/-- Settles O45: ALTITUDE of the pressure output, which is NaN32 where COMP_P gives no value. -/
theorem altWritesTheAltitude : Obligations.AltWritesTheAltitude := by
  intro metric s cal smp t h
  refine ⟨fun q hq => ?_, fun hnone => ?_⟩
  · rw [exec_alt, runPoll_ok (poll_samples h), compensate_err, compensate_p_of_some rfl hq, hq]
    rfl
  · rw [exec_alt, runPoll_ok (poll_samples h), compensate_err, compensate_p_of_none hnone, hnone, Output.failed_fl,
      altitude_nan32_left]
    rfl

/-- Settles O46: DEWPOINT of the temperature and humidity outputs of the one sample. -/
theorem dewWritesTheDewPoint : Obligations.DewWritesTheDewPoint := by
  intro metric s cal smp t h
  rw [exec_dew, runPoll_ok (poll_samples h)]
  rfl

end Sys2Proof.Machine
end

section
/-! One error per command, in the order of its checks (60_exceptions.md R248), and the units that are read in Pascals
(30_encoding.md R84): O49 and O50. -/

namespace Sys2Proof.Machine

variable {i : Instr} {celsius : Bool} {unit unit' : PressureUnit} {want : Want} {s s' t : State} {o : Reading}
  {tr : Transport} {commit : Reading → State → State}

/-- The commands that poll are all but BEGIN, and each is one poll, which asks for pressure when the command does. -/
theorem exec_eq_runPoll (hi : Spec.Polls i) : ∃ celsius unit want commit,
    (want.p = true ↔ Spec.WantsPressure i) ∧ ∀ s, exec i s = runPoll celsius unit want commit s := by
  cases i with
  | beginSession => exact hi.elim
  | readT celsius => exact ⟨_, _, _, _, iff_of_false Bool.false_ne_true id, exec_readT celsius⟩
  | readP unit => exact ⟨_, _, _, _, iff_of_true rfl trivial, exec_readP unit⟩
  | readH => exact ⟨_, _, _, _, iff_of_false Bool.false_ne_true id, exec_readH⟩
  | readAll metric unit => exact ⟨_, _, _, _, iff_of_true rfl trivial, exec_readAll metric unit⟩
  | alt metric => exact ⟨_, _, _, _, iff_of_true rfl trivial, exec_alt metric⟩
  | dew metric => exact ⟨_, _, _, _, iff_of_false Bool.false_ne_true id, exec_dew metric⟩

/-- The error of a BEGIN: the session is tested first, then the calibration's length. -/
theorem err_of_execBegin (h : execBegin s = .next t) :
    (s.session = .ready → t.err = .alreadyReady) ∧
      (s.session = .uninitialized → ∃ bytes tr, (s.transport.pushCfg s.cfg).fetchCal = .ok (bytes, tr) ∧
        t.err = if bytes.length < 32 then .incompleteCalibration else .ok) := by
  obtain ⟨hsession, rfl⟩ | ⟨bytes, tr, hsession, hfetch, hlen, rfl⟩ | ⟨block, tr, hsession, hfetch, rfl⟩ :=
    execBegin_cases h
  · simp [hsession]
  · have hshort : bytes.length < 32 := lt_of_le_of_ne (Transport.fetchCal_ok hfetch).1 hlen
    exact ⟨by simp [hsession], fun _ => ⟨bytes, tr, hfetch, by rw [if_pos hshort]; rfl⟩⟩
  · exact ⟨by simp [hsession], fun _ => ⟨_, tr, hfetch, by simp⟩⟩

/-- The error of a poll: the session, then the sample's length, then the denominator where pressure is wanted. -/
theorem err_of_poll (h : poll celsius unit want s = .ok (o, tr)) :
    (s.session = .uninitialized → o.err = .notReady) ∧
      (s.session = .ready → ∃ bytes, s.transport.fetchSmp = .ok (bytes, tr) ∧
        (bytes.length < 8 → o.err = .incompleteSample) ∧
        ∀ (cal : CalBlock) (smp : SmpBlock), bytes = smp.toList → calBlock s.cal = .ok cal →
          let c := decodeCal s.h45Ext cal
          o.err = if want.p = true ∧
              pressureDenominator (compT (decodeSmp smp).rawT c.t1 c.t2 c.t3).tFine c.p1 c.p2 c.p3 = 0
            then .divisionByZero else .ok) := by
  obtain ⟨hsession, rfl, -⟩ | ⟨bytes, hsession, hfetch, hlen, rfl⟩ | ⟨cal, smp, hsamples, rfl⟩ := poll_cases h
  · simp [hsession]
  · refine ⟨by simp [hsession], fun _ => ⟨bytes, hfetch, fun _ => rfl, ?_⟩⟩
    rintro _ smp rfl
    exact absurd smp.length_toList hlen
  · obtain ⟨hsession, hcal, hfetch⟩ := hsamples
    refine ⟨by simp [hsession], fun _ => ⟨_, hfetch, by simp, ?_⟩⟩
    intro cal' smp' hsmp hcal'
    obtain rfl := Vector.toList_inj.mp hsmp
    obtain rfl : cal = cal' := Except.ok.inj (hcal.symm.trans hcal')
    simp only [compensate_err, compP_eq_none_iff]

/-- Settles O49: BEGIN's checks, and those of the one poll every other command is. -/
theorem firstFailingCheckIsReported : Obligations.FirstFailingCheckIsReported := by
  intro i s t h
  refine ⟨fun hi => ?_, fun hi => ?_⟩
  · subst hi
    exact err_of_execBegin h
  · obtain ⟨_, _, want, _, hwant, hexec⟩ := exec_eq_runPoll hi
    obtain ⟨o, tr, hpoll, rfl⟩ := runPoll_next (hexec s ▸ h)
    obtain ⟨huninit, hready⟩ := err_of_poll hpoll
    refine ⟨huninit, fun hsession => ?_⟩
    obtain ⟨bytes, hfetch, hshort, hcomplete⟩ := hready hsession
    refine ⟨bytes, tr, hfetch, hshort, fun cal smp hsmp hcal => ?_⟩
    have herr := hcomplete cal smp hsmp hcal
    rw [← hwant]
    exact ⟨fun hzero => herr.trans (if_pos hzero), fun hzero => herr.trans (if_neg hzero)⟩

/-- A poll reads its unit in PRES_OUT alone. -/
theorem poll_congr_unit (h : ∀ q, presOut q unit = presOut q unit') (celsius : Bool) (want : Want) (s : State) :
    poll celsius unit want s = poll celsius unit' want s := by
  have houtput : Output.pressure unit = Output.pressure unit' := funext fun q => by simp [Output.pressure, h q]
  simp only [poll, compensate, houtput]

theorem runPoll_congr_unit (h : ∀ q, presOut q unit = presOut q unit') (celsius : Bool) (want : Want)
    (commit : Reading → State → State) (s : State) :
    runPoll celsius unit want commit s = runPoll celsius unit' want commit s := by
  rw [runPoll, runPoll, poll_congr_unit h]

theorem presOut_ofSelector_unnamed {u : BitVec 8} (hu : u.toNat = 6 ∨ 8 ≤ u.toNat) (q : Word32) :
    presOut q (.ofSelector u) = presOut q .pa := by
  rw [pressureOutputFollowsTheUnitTable.1 q u]
  rw [if_neg, if_neg, if_neg, if_neg, if_neg, if_neg, presOut] <;> omega

/-- Settles O50: these selectors have the output of Pascals, and the two commands read their unit in it alone. -/
theorem unnamedUnitsAreReadInPascals : Obligations.UnnamedUnitsAreReadInPascals := by
  intro u m s hu
  have hpa := presOut_ofSelector_unnamed hu
  rw [exec_readP, exec_readP, exec_readAll, exec_readAll]
  exact ⟨runPoll_congr_unit hpa _ _ _ s, runPoll_congr_unit hpa _ _ _ s⟩

end Sys2Proof.Machine
end

section
/-! What a command leaves unchanged (10_state.md R33, R40, R41; 47_commands.md R220, R221): O51, O52, O54 and O56. -/

namespace Sys2Proof.Machine

variable {i : Instr} {celsius : Bool} {unit : PressureUnit} {want : Want} {s s₁ s₂ t : State}
  {commit : Reading → State → State}

/-- A command that polls leaves all but its result registers, STATUS.ERR and the sample's side of the transport. -/
theorem exec_poll_frame (hi : i ≠ .beginSession) (h : exec i s = .next t) :
    t.session = s.session ∧ (∀ a, calRead t.cal a = calRead s.cal a) ∧ t.h45Ext = s.h45Ext ∧ t.slp = s.slp ∧
      t.cfg = s.cfg ∧ t.queue = s.queue ∧ t.transport.cal = s.transport.cal := by
  obtain ⟨_, _, _, _, _, hpoll, rfl, -, hsession, hcal, hext, hslp, hcfg, hqueue⟩ := exec_poll_next hi h
  exact ⟨hsession, fun a => by rw [hcal], hext, hslp, hcfg, hqueue, (poll_transport hpoll).1⟩

/-- What a command that polls keeps beside the result registers, and RES_D where its update does. -/
theorem exec_poll_frame_of_resD (hi : i ≠ .beginSession) (h : exec i s = .next t) (hresD : t.resD = s.resD) :
    t.session = s.session ∧ (∀ a, calRead t.cal a = calRead s.cal a) ∧ t.resD = s.resD ∧ t.h45Ext = s.h45Ext ∧
      t.slp = s.slp ∧ t.cfg = s.cfg ∧ t.queue = s.queue ∧ t.transport.cal = s.transport.cal := by
  obtain ⟨hsession, hcal, hrest⟩ := exec_poll_frame hi h
  exact ⟨hsession, hcal, hresD, hrest⟩

/-- Settles O51: the frame of a command that polls, beside the result registers each read's own update leaves. -/
theorem readsChangeOnlyTheirRegisters : Obligations.ReadsChangeOnlyTheirRegisters := by
  intro m u s t
  refine ⟨fun h => ?readT, fun h => ?readP, fun h => ?readH, fun h => ?readAll⟩
  case readT =>
    obtain ⟨o, tr, -, rfl⟩ := runPoll_next (exec_readT m s ▸ h)
    exact ⟨exec_poll_frame_of_resD (i := .readT m) nofun h rfl, rfl, rfl⟩
  case readP =>
    obtain ⟨o, tr, -, rfl⟩ := runPoll_next (exec_readP u s ▸ h)
    exact ⟨exec_poll_frame_of_resD (i := .readP u) nofun h rfl, rfl, rfl⟩
  case readH =>
    obtain ⟨o, tr, -, rfl⟩ := runPoll_next (exec_readH s ▸ h)
    exact ⟨exec_poll_frame_of_resD (i := .readH) nofun h rfl, rfl, rfl⟩
  case readAll =>
    obtain ⟨o, tr, -, rfl⟩ := runPoll_next (exec_readAll m u s ▸ h)
    exact exec_poll_frame_of_resD (i := .readAll m u) nofun h rfl

/-- Settles O52: `exec_poll_frame` for each of the two, whose update is of RES_D. -/
theorem derivedCommandsChangeOnlyTheirRegister : Obligations.DerivedCommandsChangeOnlyTheirRegister := by
  rintro m s t (h | h)
  · obtain ⟨hsession, hcal, hrest⟩ := exec_poll_frame (i := .alt m) nofun h
    obtain ⟨o, tr, -, rfl⟩ := runPoll_next (exec_alt m s ▸ h)
    exact ⟨hsession, hcal, rfl, rfl, rfl, hrest⟩
  · obtain ⟨hsession, hcal, hrest⟩ := exec_poll_frame (i := .dew m) nofun h
    obtain ⟨o, tr, -, rfl⟩ := runPoll_next (exec_dew m s ▸ h)
    exact ⟨hsession, hcal, rfl, rfl, rfl, hrest⟩

/-- A command that changes SESSION is a BEGIN that found it Uninitialized and reports OK. -/
theorem exec_changes_session (h : exec i s = .next t) (hne : t.session ≠ s.session) :
    i = .beginSession ∧ s.session = .uninitialized ∧ t.session = .ready ∧ t.err = .ok := by
  by_cases hi : i = .beginSession
  · subst hi
    obtain ⟨-, rfl⟩ | ⟨_, _, -, -, -, rfl⟩ | ⟨_, _, huninit, -, rfl⟩ := execBegin_cases h
    · exact absurd rfl hne
    · exact absurd rfl hne
    · exact ⟨rfl, huninit, rfl, rfl⟩
  · exact absurd (exec_poll_frame hi h).1 hne

/-- Settles O54: waiting and an illegal word keep SESSION, so the step performed a command that changed it. -/
theorem onlyASuccessfulBeginChangesTheSession : Obligations.OnlyASuccessfulBeginChangesTheSession := by
  intro s t hstep hne
  obtain ⟨-, rfl⟩ | ⟨r, rest, hqueue, ⟨i, hdecode, hexec⟩ | ⟨_, -, rfl⟩⟩ := step_cases hstep
  · exact absurd rfl hne
  · obtain ⟨rfl, huninit, hready, herr⟩ := exec_changes_session hexec hne
    exact ⟨huninit, hready, herr, r, rest, hqueue, hdecode⟩
  · exact absurd rfl hne

/-- The states agree on all a command reads (47_commands.md R220). -/
structure State.SameInputs (s₁ s₂ : State) : Prop where
  session : s₁.session = s₂.session
  cal : s₁.cal = s₂.cal
  h45Ext : s₁.h45Ext = s₂.h45Ext
  slp : s₁.slp = s₂.slp
  cfg : s₁.cfg = s₂.cfg
  transport : s₁.transport = s₂.transport

/-- A register two commands wrote alike, or both left. -/
def WrittenAlikeOrKept {α : Type} (r₁ r₂ r₁' r₂' : α) : Prop := r₁' = r₂' ∨ r₁' = r₁ ∧ r₂' = r₂

/-- From `s₁` to `t₁` and from `s₂` to `t₂` the same was written. -/
def SameEffect (s₁ s₂ t₁ t₂ : State) : Prop :=
  t₁.session = t₂.session ∧ t₁.cal = t₂.cal ∧ t₁.err = t₂.err ∧ t₁.transport = t₂.transport ∧
    WrittenAlikeOrKept s₁.resT s₂.resT t₁.resT t₂.resT ∧ WrittenAlikeOrKept s₁.resP s₂.resP t₁.resP t₂.resP ∧
    WrittenAlikeOrKept s₁.resH s₂.resH t₁.resH t₂.resH ∧ WrittenAlikeOrKept s₁.resD s₂.resD t₁.resD t₂.resD

/-- The first outcome is a fault the second is too, or a next state and the second is one with the same effect. -/
def SameOutcome (s₁ s₂ : State) (o₁ o₂ : Host.Outcome State Fault Refusal) : Prop :=
  (∀ f, o₁ = .fault f → o₂ = .fault f) ∧ ∀ t₁, o₁ = .next t₁ → ∃ t₂, o₂ = .next t₂ ∧ SameEffect s₁ s₂ t₁ t₂

theorem sameOutcome_next {t₁ t₂ : State} (h : SameEffect s₁ s₂ t₁ t₂) : SameOutcome s₁ s₂ (.next t₁) (.next t₂) :=
  ⟨by rintro _ ⟨⟩, by rintro _ ⟨⟩; exact ⟨t₂, rfl, h⟩⟩

theorem sameOutcome_fault (f : Fault) : SameOutcome s₁ s₂ (.fault f) (.fault f) :=
  ⟨fun _ => id, by rintro _ ⟨⟩⟩

theorem poll_congr (h : s₁.SameInputs s₂) : poll celsius unit want s₁ = poll celsius unit want s₂ := by
  simp only [poll, h.session, h.cal, h.h45Ext, h.transport]

theorem runPoll_sameOutcome (h : s₁.SameInputs s₂)
    (hcommit : ∀ o tr, SameEffect s₁ s₂ ((commit o { s₁ with transport := tr }).setErr o.err)
      ((commit o { s₂ with transport := tr }).setErr o.err)) :
    SameOutcome s₁ s₂ (runPoll celsius unit want commit s₁) (runPoll celsius unit want commit s₂) := by
  rw [runPoll, runPoll, poll_congr h]
  cases poll celsius unit want s₂ with
  | error f => exact sameOutcome_fault f
  | ok r => exact sameOutcome_next (hcommit r.1 r.2)

/-- A BEGIN writes no result register, and what it writes comes from the transport. -/
theorem execBegin_sameOutcome (h : s₁.SameInputs s₂) : SameOutcome s₁ s₂ (execBegin s₁) (execBegin s₂) := by
  obtain ⟨hsession, hcal, hext, hslp, hcfg, htransport⟩ := h
  have hkept {α : Type} (r₁ r₂ : α) : WrittenAlikeOrKept r₁ r₂ r₁ r₂ := .inr ⟨rfl, rfl⟩
  rw [execBegin, execBegin, hsession, htransport, hcfg]
  cases s₂.session with
  | ready => exact sameOutcome_next ⟨hsession, hcal, rfl, htransport, hkept _ _, hkept _ _, hkept _ _, hkept _ _⟩
  | uninitialized =>
    cases (s₂.transport.pushCfg s₂.cfg).fetchCal with
    | error f => exact sameOutcome_fault f
    | ok r =>
      refine sameOutcome_next ?_
      rw [loadCalibration, loadCalibration]
      cases completeBlock Config.calLen r.1 with
      | none => exact ⟨rfl, hcal, rfl, rfl, hkept _ _, hkept _ _, hkept _ _, hkept _ _⟩
      | some block =>
        exact ⟨rfl, congrArg (Memory.writeRun 0 block.toList) hcal, rfl, rfl, hkept _ _, hkept _ _, hkept _ _,
          hkept _ _⟩

/-- Settles O56: equal inputs give equal polls, and a command writes its registers from the poll and SLP alone. -/
theorem earlierOutcomesDoNotInfluenceACommand : Obligations.EarlierOutcomesDoNotInfluenceACommand := by
  intro i s₁ s₂ hsession hcal hext hslp hcfg htransport
  have h : s₁.SameInputs s₂ := ⟨hsession, hcal, hext, hslp, hcfg, htransport⟩
  have hkept {α : Type} (r₁ r₂ : α) : WrittenAlikeOrKept r₁ r₂ r₁ r₂ := .inr ⟨rfl, rfl⟩
  show SameOutcome s₁ s₂ (exec i s₁) (exec i s₂)
  cases i with
  | beginSession => exact execBegin_sameOutcome h
  | readT celsius =>
    rw [exec_readT, exec_readT]
    exact runPoll_sameOutcome h fun o tr =>
      ⟨hsession, hcal, rfl, rfl, .inl rfl, hkept _ _, hkept _ _, hkept _ _⟩
  | readP unit =>
    rw [exec_readP, exec_readP]
    exact runPoll_sameOutcome h fun o tr =>
      ⟨hsession, hcal, rfl, rfl, hkept _ _, .inl rfl, hkept _ _, hkept _ _⟩
  | readH =>
    rw [exec_readH, exec_readH]
    exact runPoll_sameOutcome h fun o tr =>
      ⟨hsession, hcal, rfl, rfl, hkept _ _, hkept _ _, .inl rfl, hkept _ _⟩
  | readAll metric unit =>
    rw [exec_readAll, exec_readAll]
    exact runPoll_sameOutcome h fun o tr =>
      ⟨hsession, hcal, rfl, rfl, .inl rfl, .inl rfl, .inl rfl, hkept _ _⟩
  | alt metric =>
    rw [exec_alt, exec_alt]
    exact runPoll_sameOutcome h fun o tr =>
      ⟨hsession, hcal, rfl, rfl, hkept _ _, hkept _ _, hkept _ _,
        .inl (congrArg (fun slp => some (altitude o.p.fl slp metric)) hslp)⟩
  | dew metric =>
    rw [exec_dew, exec_dew]
    exact runPoll_sameOutcome h fun o tr =>
      ⟨hsession, hcal, rfl, rfl, hkept _ _, hkept _ _, hkept _ _, .inl rfl⟩

end Sys2Proof.Machine
end

section
/-! Where a step stops (60_exceptions.md R252; 00_scope.md R19; log 4, log 5): O57, O58 and O59. -/

namespace Sys2Proof.Machine

variable {i : Instr} {celsius : Bool} {unit : PressureUnit} {want : Want} {s : State} {f : Fault}
  {commit : Reading → State → State}

theorem runPoll_error (h : poll celsius unit want s = .error f) : runPoll celsius unit want commit s = .fault f := by
  rw [runPoll, h]

theorem poll_of_fetchSmp_error (hready : s.session = .ready) (h : s.transport.fetchSmp = .error f) :
    poll celsius unit want s = .error f := by
  simp only [poll, hready, h]

theorem execBegin_of_fetchCal_error (huninit : s.session = .uninitialized)
    (h : (s.transport.pushCfg s.cfg).fetchCal = .error f) : execBegin s = .fault f := by
  simp only [execBegin, huninit, h]

/-- Settles O59: BEGIN and every poll stop where their fetch does. -/
theorem aFetchThatNeverReturnsEndsNoCommand : Obligations.AFetchThatNeverReturnsEndsNoCommand := by
  intro s
  refine ⟨fun huninit hnever => ?_, fun i hi hready hnever => ?_⟩
  · exact execBegin_of_fetchCal_error huninit (Transport.fetchCal_never hnever)
  · obtain ⟨_, _, _, _, -, hexec⟩ := exec_eq_runPoll hi
    rw [hexec, runPoll_error (poll_of_fetchSmp_error hready (Transport.fetchSmp_never hnever))]

/-- A fault is one of a fetch that waits for the answer of the session's state. -/
def StopsInFetch (s : State) (f : Fault) : Prop :=
  (f = .transportNeverAnswers ∨ f = .answerTooLong) ∧
    ((s.session = .uninitialized ∧ ¬ s.transport.CalArrives) ∨ (s.session = .ready ∧ ¬ s.transport.SmpArrives))

/-- A good state has a whole CAL where a poll reads it, so only the fetches are left to stop a command. -/
theorem exec_stops_in_fetch (hinv : s.Inv) (h : exec i s = .fault f) : StopsInFetch s f := by
  by_cases hi : i = .beginSession
  · subst hi
    obtain ⟨huninit, hfetch⟩ := execBegin_fault h
    obtain ⟨hf, harrives⟩ := Transport.fetchCal_error hfetch
    exact ⟨hf, .inl ⟨huninit, harrives⟩⟩
  · obtain ⟨_, _, _, hpoll⟩ := exec_poll_fault hi h
    obtain ⟨hready, hfetch | hcal⟩ := poll_error hpoll
    · obtain ⟨hf, harrives⟩ := Transport.fetchSmp_error hfetch
      exact ⟨hf, .inr ⟨hready, harrives⟩⟩
    · obtain ⟨block, hblock⟩ := hinv.calWhenReady hready
      cases hblock.symm.trans hcal

/-- A step that faults performs a command that does. -/
theorem step_fault (h : step s = .fault f) :
    ∃ r rest i, s.queue = r :: rest ∧ decode r.word = .ok i ∧ exec i (s.present r rest) = .fault f := by
  unfold step at h
  split at h
  · cases h
  · next r rest hqueue =>
    split at h
    · next i hdecode => exact ⟨r, rest, i, hqueue, hdecode, h⟩
    · cases h

theorem step_ne_refused (s : State) (r : Refusal) : step s ≠ .refused r := by
  unfold step
  split
  · simp
  · split
    · exact exec_ne_refused _ _ _
    · simp

theorem step_stops_in_fetch (hinv : s.Inv) (h : step s = .fault f) : StopsInFetch s f := by
  obtain ⟨r, rest, i, -, -, hexec⟩ := step_fault h
  have hstops := exec_stops_in_fetch (hinv.present r rest) hexec
  exact hstops

/-- Settles O58: a step stops where its command does, and no command is refused. -/
theorem stepStopsOnlyInAFetch : Obligations.StepStopsOnlyInAFetch :=
  ⟨fun _ _ => step_stops_in_fetch, step_ne_refused⟩

/-- Settles O57: a step that stopped would have waited for an answer that does not arrive. -/
theorem stepCompletesWhenAnswersArrive : Obligations.StepCompletesWhenAnswersArrive := by
  intro s hinv hcal hsmp
  cases hstep : step s with
  | next t => exact ⟨t, hstep⟩
  | refused r => exact absurd hstep (step_ne_refused s r)
  | fault f =>
    obtain ⟨-, ⟨huninit, harrives⟩ | ⟨hready, harrives⟩⟩ := step_stops_in_fetch hinv hstep
    · exact absurd (hcal huninit) harrives
    · exact absurd (hsmp hready) harrives

end Sys2Proof.Machine
end

section
/-! The twelve bits of H4 and H5 in COMP_H (41_calibration.md R111): O19. -/

namespace Sys2Proof.Machine

/-- Both extensions keep the pattern's own twelve bits. -/
theorem getLsbD_extend12 (ext : H45Ext) (h : BitVec 12) {k : Nat} (hk : k < 12) :
    (extend12 ext h).getLsbD k = h.getLsbD k := by
  have hk' : k < 16 := by omega
  cases ext with
  | sign => rw [extend12, BitVec.getLsbD_signExtend, decide_eq_true hk', if_pos hk, Bool.true_and]
  | zero => rw [extend12, BitVec.getLsbD_setWidth, decide_eq_true hk', Bool.true_and]

/-- A shift of H4 by 20 leaves only its low twelve bits in the 32-bit chain. -/
theorem extend12_shiftLeft_twenty (ext ext' : H45Ext) (h : BitVec 12) :
    ((extend12 ext h).signExtend 32 <<< 20 : Word32) = (extend12 ext' h).signExtend 32 <<< 20 := by
  apply BitVec.eq_of_getLsbD_eq
  intro i hi
  rw [BitVec.getLsbD_shiftLeft, BitVec.getLsbD_shiftLeft]
  by_cases hlow : i < 20
  · simp [hlow]
  · have hk : i - 20 < 12 := by omega
    rw [BitVec.getLsbD_signExtend, BitVec.getLsbD_signExtend, if_pos (by omega), if_pos (by omega),
      getLsbD_extend12 ext h hk, getLsbD_extend12 ext' h hk]

theorem compH_extend12_h4 (ext ext' : H45Ext) (h : BitVec 12) (rawH : BitVec 16) (tFine : Word32) (c : Coeffs) :
    compH rawH tFine { c with h4 := extend12 ext h } = compH rawH tFine { c with h4 := extend12 ext' h } := by
  simp only [compH, humidityUnclamped, extend12_shiftLeft_twenty ext ext' h]

/-- Coefficients under which H5 alone drives the humidity: y of R170 is a constant. -/
def h5Coeffs : Coeffs :=
  { t1 := 0, t2 := 0, t3 := 0, p1 := 0, p2 := 0, p3 := 0, p4 := 0, p5 := 0, p6 := 0, p7 := 0, p8 := 0, p9 := 0
    h1 := 0, h2 := 512, h3 := 0, h4 := 0, h5 := 0, h6 := 0 }

/-- Settles O19: the shift drops H4's extension; 0x800 for H5 is −2048 or 2048, which give 0 and more than 0. -/
theorem onlyH5ShowsTheExtension : Obligations.OnlyH5ShowsTheExtension :=
  ⟨compH_extend12_h4 .sign .zero, 0x800, 0, 76800 + 16384, h5Coeffs, by decide⟩

end Sys2Proof.Machine
end

section
/-! The dew point where the logarithm is infinite, and the logarithm at 0 and 1 (46_derived.md R192, R193;
92_eei_decisions.md D18): O33, O34 and O35. -/

namespace Sys2Proof.Machine

/-- Settles O33: the NaN test, then R193's expression over `dewC`, with its conversions or without. -/
theorem dewPointFollowsItsFormula : Obligations.DewPointFollowsItsFormula := by
  intro t h
  by_cases hnan : isNaN t = true ∨ isNaN h = true
  · rw [dewPoint_of_isNaN hnan, dewPoint_of_isNaN hnan, if_pos hnan, if_pos hnan]
    exact ⟨rfl, rfl⟩
  · rw [if_neg hnan, if_neg hnan, dewPoint, dewPoint, if_neg (mt Bool.or_eq_true_iff.mp hnan),
      if_neg (mt Bool.or_eq_true_iff.mp hnan), if_pos rfl, if_neg Bool.false_ne_true]
    exact ⟨rfl, rfl⟩

theorem F64.mul_nan (x : F64) : x.mul .nan = .nan := by cases x <;> rfl

theorem F64.nan_div (x : F64) : F64.nan.div x = .nan := rfl

/-- A sum with an infinity is that infinity or NaN. -/
theorem F64.inf_add (a : Bool) (x : F64) : (F64.inf a).add x = .nan ∨ (F64.inf a).add x = .inf a := by
  cases x with
  | nan => exact .inl rfl
  | inf b =>
    simp only [F64.add]
    split_ifs
    · exact .inr rfl
    · exact .inl rfl
  | fin b k => exact .inr rfl

theorem F64.finite_of_finiteNonzero {x : F64} (h : x.finiteNonzero = true) : ∃ a k, x = .fin a k ∧ k ≠ 0 := by
  cases x with
  | fin a k => exact ⟨a, k, rfl, by simpa [F64.finiteNonzero, Nat.pos_iff_ne_zero] using h⟩
  | _ => simp [F64.finiteNonzero] at h

theorem magnusA_finiteNonzero : (dec 17625 3).finiteNonzero = true := by decide +kernel
theorem magnusB_finiteNonzero : (dec 24304 2).finiteNonzero = true := by decide +kernel

/-- An infinite logarithm leaves an infinity over an infinity, whatever the temperature's term. -/
theorem dewFromLn_inf (a : Bool) (t : F64) : dewFromLn (.inf a) t = .nan := by
  obtain ⟨m, j, hm, -⟩ := F64.finite_of_finiteNonzero magnusA_finiteNonzero
  obtain ⟨n, k, hn, hk⟩ := F64.finite_of_finiteNonzero magnusB_finiteNonzero
  simp only [dewFromLn]
  obtain hsum | hsum := F64.inf_add a (((dec 17625 3).mul t).div ((dec 24304 2).add t))
  · rw [hsum, F64.mul_nan, F64.nan_div]
  · rw [hsum, hm, hn]
    simp [F64.mul, hk, F64.sub, F64.neg, F64.add, F64.div]

theorem ln64_zero (neg : Bool) : ln64 (.fin neg 0) = .inf true := rfl

theorem dewC_zero (t : F64) : dewC t (F64.ofF32 0) = .nan := by
  have hzero : (F64.ofF32 0).div (F64.ofNat 100) = .fin false 0 := by decide +kernel
  rw [dewC, hzero, ln64_zero, dewFromLn_inf]

/-- Settles O34: a NaN temperature is caught by the test; past it the logarithm of 0 is infinite. -/
theorem dewPointAtZeroHumidityIsNaN : Obligations.DewPointAtZeroHumidityIsNaN := by
  intro t metric
  by_cases hnan : isNaN t = true ∨ isNaN 0 = true
  · exact dewPoint_of_isNaN hnan metric
  · rw [dewPoint, if_neg (mt Bool.or_eq_true_iff.mp hnan), dewC_zero, dewC_zero]
    cases metric <;> rfl

theorem ofNat1_finiteNonzero : (F64.ofNat 1).finiteNonzero = true := by decide +kernel

theorem ln64_one : ln64 (F64.ofNat 1) = .fin false 0 := by
  have hne : ∀ neg, F64.ofNat 1 ≠ .fin neg 0 := by
    intro neg h
    have hone := ofNat1_finiteNonzero
    rw [h] at hone
    cases hone
  unfold ln64
  split
  · next neg h => exact absurd h (hne neg)
  · rw [if_pos rfl]

/-- Settles O35: 0 and 1 are `ln64`'s own cases, and 100 % is the quotient 1. -/
theorem logarithmAtZeroAndOne : Obligations.LogarithmAtZeroAndOne := by
  have hzero : F64.ofNat 0 = .fin false 0 := by decide +kernel
  have hhundred : (F64.ofF32 0x42C80000).div (F64.ofNat 100) = F64.ofNat 1 := by decide +kernel
  refine ⟨?_, ln64_one, ?_⟩
  · rw [hzero, ln64_zero]
  · rw [hhundred, ln64_one]

end Sys2Proof.Machine
end

section
/-! The numbers a format of `prec` digits holds, and rounding to the nearest of them, ties to even (00_scope.md R12):
O25. -/

namespace Sys2Proof.Machine

variable {prec num den k j : Nat}

/-! ## The numbers a format holds -/

theorem excessBits_le_iff (hprec : 0 < prec) (k x : Nat) : excessBits prec k ≤ x ↔ k < 2 ^ (prec + x) := by
  rcases Nat.eq_zero_or_pos k with rfl | hk
  · exact iff_of_true (by simp [excessBits]) (Nat.two_pow_pos _)
  · rw [← Nat.log2_lt hk.ne', excessBits]
    omega

theorem le_of_excessBits_pos (hprec : 0 < prec) (h : 0 < excessBits prec k) :
    2 ^ (prec - 1 + excessBits prec k) ≤ k := by
  have hbelow := mt (excessBits_le_iff hprec k (excessBits prec k - 1)).mpr (by omega)
  rwa [Nat.not_lt, show prec + (excessBits prec k - 1) = prec - 1 + excessBits prec k by omega] at hbelow

theorem holds_iff_dvd (hprec : 0 < prec) : Spec.Holds prec k ↔ 2 ^ excessBits prec k ∣ k := by
  constructor
  · rintro ⟨m, e, hm, rfl⟩
    have hlt : m * 2 ^ e < 2 ^ (prec + e) := by
      rw [Nat.pow_add]
      exact Nat.mul_lt_mul_of_pos_right hm (Nat.two_pow_pos e)
    exact (Nat.pow_dvd_pow 2 ((excessBits_le_iff hprec _ e).mpr hlt)).mul_left m
  · intro h
    exact ⟨_, _, units_div_lt hprec k, (Nat.div_mul_cancel h).symm⟩

/-! ## Distances -/

theorem dist_of_le (h : k * den ≤ num) : Spec.dist num den k = num - k * den := by
  rw [Spec.dist, ← Nat.cast_mul]
  omega

theorem dist_of_ge (h : num ≤ k * den) : Spec.dist num den k = k * den - num := by
  rw [Spec.dist, ← Nat.cast_mul]
  omega

theorem dist_mul_right (num den k unit : Nat) : Spec.dist num den (k * unit) = Spec.dist num (den * unit) k := by
  rw [Spec.dist, Spec.dist, Nat.cast_mul, Nat.cast_mul, mul_assoc, mul_comm (unit : Int)]

theorem nearestEven_cases (num den : Nat) :
    (nearestEven num den = num / den ∧ 2 * (num % den) ≤ den ∧ (2 * (num % den) = den → num / den % 2 = 0)) ∨
      (nearestEven num den = num / den + 1 ∧ den ≤ 2 * (num % den) ∧
        (2 * (num % den) = den → (num / den + 1) % 2 = 0)) := by
  simp only [nearestEven]
  split_ifs <;> omega

/-- The rounded count is no farther than any other, and even where another is as near. -/
theorem nearestEven_nearest (hden : 0 < den) (num k : Nat) :
    Spec.dist num den (nearestEven num den) ≤ Spec.dist num den k ∧
      (k ≠ nearestEven num den → Spec.dist num den (nearestEven num den) = Spec.dist num den k →
        nearestEven num den % 2 = 0) := by
  have hdiv := Nat.div_add_mod' num den
  have hmod := Nat.mod_lt num hden
  have hsucc : (num / den + 1) * den = num / den * den + den := Nat.succ_mul _ _
  have hq : Spec.dist num den (num / den) = num % den := by rw [dist_of_le (by omega)]; omega
  have hq' : Spec.dist num den (num / den + 1) = den - num % den := by rw [dist_of_ge (by omega)]; omega
  have hk : k = num / den ∨ k = num / den + 1 ∨ num % den + den ≤ Spec.dist num den k ∨
      2 * den ≤ Spec.dist num den k + num % den := by
    rcases Nat.lt_or_ge k (num / den) with hlt | hge
    · have hmul : (k + 1) * den ≤ num / den * den := Nat.mul_le_mul_right den hlt
      rw [Nat.succ_mul] at hmul
      rw [dist_of_le (by omega)]
      omega
    · rcases Nat.lt_or_ge (num / den + 1) k with hlt | hle
      · have hmul : (num / den + 2) * den ≤ k * den := Nat.mul_le_mul_right den hlt
        rw [Nat.add_mul] at hmul
        rw [dist_of_ge (by omega)]
        omega
      · omega
  rcases nearestEven_cases num den with ⟨hne, hhalf, hodd⟩ | ⟨hne, hhalf, hodd⟩
  · rw [hne, hq]
    rcases hk with rfl | rfl | hk | hk
    · omega
    · omega
    · omega
    · omega
  · rw [hne, hq']
    rcases hk with rfl | rfl | hk | hk
    · omega
    · omega
    · omega
    · omega

/-! ## Rounding -/

theorem roundUnits_eq (prec num den : Nat) : roundUnits prec num den =
    nearestEven num (den * 2 ^ excessBits prec (num / den)) * 2 ^ excessBits prec (num / den) := rfl

/-- The rounded count has at most `prec` digits, or is the next power of two. -/
theorem nearestEven_le_two_pow (hprec : 0 < prec) (num den : Nat) :
    nearestEven num (den * 2 ^ excessBits prec (num / den)) ≤ 2 ^ prec := by
  have hlt := units_div_lt hprec (num / den)
  rw [Nat.div_div_eq_div_mul] at hlt
  rcases nearestEven_cases num (den * 2 ^ excessBits prec (num / den)) with ⟨hne, -⟩ | ⟨hne, -⟩
  · omega
  · omega

theorem holds_roundUnits (hprec : 0 < prec) (num den : Nat) : Spec.Holds prec (roundUnits prec num den) := by
  rw [roundUnits_eq]
  rcases Nat.eq_or_lt_of_le (nearestEven_le_two_pow hprec num den) with heq | hlt
  · refine ⟨1, prec + excessBits prec (num / den), Nat.one_lt_two_pow hprec.ne', ?_⟩
    rw [heq, one_mul, Nat.pow_add]
  · exact ⟨_, _, hlt, rfl⟩

/-- A number the format holds is a multiple of the unit the quotient is rounded in, or is farther than some multiple:
the one power of two between it and the quotient. -/
theorem dvd_or_farther_of_holds (hprec : 0 < prec) (hden : 0 < den) (hj : Spec.Holds prec j) :
    (∃ a, j = a * 2 ^ excessBits prec (num / den)) ∨
      ∃ a, Spec.dist num den (a * 2 ^ excessBits prec (num / den)) < Spec.dist num den j := by
  obtain ⟨m, e, hm, rfl⟩ := hj
  rcases Nat.lt_or_ge e (excessBits prec (num / den)) with hlt | hge
  · right
    have hbelow : m * 2 ^ e < 2 ^ (prec - 1) * 2 ^ excessBits prec (num / den) :=
      calc m * 2 ^ e < 2 ^ prec * 2 ^ e := Nat.mul_lt_mul_of_pos_right hm (Nat.two_pow_pos e)
        _ = 2 ^ (prec + e) := (Nat.pow_add 2 prec e).symm
        _ ≤ 2 ^ (prec - 1 + excessBits prec (num / den)) := Nat.pow_le_pow_right (by decide) (by omega)
        _ = 2 ^ (prec - 1) * 2 ^ excessBits prec (num / den) := Nat.pow_add 2 _ _
    have hquot := le_of_excessBits_pos hprec (Nat.zero_lt_of_lt hlt)
    rw [Nat.pow_add, Nat.le_div_iff_mul_le hden] at hquot
    have hden' := Nat.mul_lt_mul_of_pos_right hbelow hden
    refine ⟨2 ^ (prec - 1), ?_⟩
    rw [dist_of_le hquot, dist_of_le (by omega)]
    omega
  · exact .inl ⟨m * 2 ^ (e - excessBits prec (num / den)), by rw [mul_assoc, ← Nat.pow_add, Nat.sub_add_cancel hge]⟩

/-- A multiple of a unit of `prec` digits or fewer, by an even count, has an even last digit. -/
theorem lastDigitEven_mul (hprec : 2 ≤ prec) {c x : Nat} (hc : c ≤ 2 ^ prec) (heven : c % 2 = 0) :
    Spec.LastDigitEven prec (c * 2 ^ x) := by
  show c * 2 ^ x / 2 ^ excessBits prec (c * 2 ^ x) % 2 = 0
  rcases Nat.eq_or_lt_of_le hc with rfl | hlt
  · have hexcess : excessBits prec (2 ^ prec * 2 ^ x) = x + 1 := by
      rw [← Nat.pow_add, excessBits, Nat.log2_two_pow]
      omega
    have hpow : 2 ^ prec * 2 ^ x = 2 ^ (prec - 2) * 2 * 2 ^ (x + 1) := by
      rw [← Nat.pow_succ, ← Nat.pow_add, ← Nat.pow_add]
      congr 1
      omega
    rw [hexcess, hpow, Nat.mul_div_cancel _ (Nat.two_pow_pos _), Nat.mul_mod_left]
  · have hexcess : excessBits prec (c * 2 ^ x) ≤ x := by
      rw [excessBits_le_iff (by omega), Nat.pow_add]
      exact Nat.mul_lt_mul_of_pos_right hlt (Nat.two_pow_pos x)
    generalize excessBits prec (c * 2 ^ x) = y at hexcess
    obtain ⟨z, rfl⟩ := Nat.exists_eq_add_of_le hexcess
    rw [Nat.pow_add, mul_left_comm, Nat.mul_div_cancel_left _ (Nat.two_pow_pos _), Nat.mul_mod, heven, Nat.zero_mul,
      Nat.zero_mod]

/-- Settles O25: among the multiples of the rounding's unit the count is the nearest, and every other number the format
holds is farther than one of them. -/
theorem roundingIsNearestTiesToEven : Obligations.RoundingIsNearestTiesToEven := by
  intro prec num den hprec hden
  refine ⟨holds_roundUnits (by omega) num den, fun j hj => ?_⟩
  have hunit : 0 < den * 2 ^ excessBits prec (num / den) := Nat.mul_pos hden (Nat.two_pow_pos _)
  have hle := nearestEven_le_two_pow (show 0 < prec by omega) num den
  rw [roundUnits_eq, dist_mul_right]
  obtain ⟨a, rfl⟩ | ⟨a, hfarther⟩ := dvd_or_farther_of_holds (num := num) (by omega) hden hj
  · rw [dist_mul_right]
    obtain ⟨hnear, heven⟩ := nearestEven_nearest hunit num a
    refine ⟨hnear, fun hne hdist => lastDigitEven_mul hprec hle (heven ?_ hdist)⟩
    rintro rfl
    exact hne rfl
  · rw [dist_mul_right] at hfarther
    have hlt := Nat.lt_of_le_of_lt (nearestEven_nearest hunit num a).1 hfarther
    exact ⟨hlt.le, fun _ hdist => absurd hdist hlt.ne⟩

end Sys2Proof.Machine
end

section
/-! The exponent field and the fraction of a number a format holds (00_scope.md R12): packing and unpacking are inverse
to each other. -/

namespace Sys2Proof.Machine

variable {prec k e f : Nat}

theorem unpackUnits_zero (prec f : Nat) : unpackUnits prec 0 f = f := rfl

theorem unpackUnits_succ (prec e f : Nat) : unpackUnits prec (e + 1) f = (2 ^ (prec - 1) + f) * 2 ^ e := rfl

theorem two_mul_two_pow_pred (hprec : 0 < prec) : 2 * 2 ^ (prec - 1) = 2 ^ prec := by
  rw [← Nat.pow_succ', Nat.succ_eq_add_one, Nat.sub_add_cancel hprec]

/-- Below 2^prec units a number has no digit to drop. -/
theorem excessBits_of_lt (hprec : 0 < prec) (h : k < 2 ^ prec) : excessBits prec k = 0 :=
  Nat.le_zero.mp ((excessBits_le_iff hprec k 0).mpr h)

/-- A significand with its leading digit set drops exactly the digits its exponent adds. -/
theorem excessBits_significand (hprec : 0 < prec) {c : Nat} (hlow : 2 ^ (prec - 1) ≤ c) (hhigh : c < 2 ^ prec)
    (x : Nat) : excessBits prec (c * 2 ^ x) = x := by
  refine Nat.le_antisymm ((excessBits_le_iff hprec _ x).mpr ?_) (Nat.le_of_not_lt fun hlt => ?_)
  · rw [Nat.pow_add]
    exact Nat.mul_lt_mul_of_pos_right hhigh (Nat.two_pow_pos x)
  · have hbelow := (excessBits_le_iff hprec (c * 2 ^ x) (x - 1)).mp (by omega)
    have habove := Nat.mul_le_mul_right (2 ^ x) hlow
    rw [← Nat.pow_add, show prec - 1 + x = prec + (x - 1) by omega] at habove
    omega

theorem packUnits_unpackUnits (hprec : 0 < prec) (hf : f < 2 ^ (prec - 1)) (e : Nat) :
    packUnits prec (unpackUnits prec e f) = e * 2 ^ (prec - 1) + f := by
  have htwice := two_mul_two_pow_pred hprec
  cases e with
  | zero =>
    have hexcess : excessBits prec f = 0 := excessBits_of_lt hprec (by omega)
    simp only [unpackUnits_zero, packUnits, hexcess, Nat.zero_mul, Nat.pow_zero, Nat.div_one]
  | succ e =>
    have hexcess := excessBits_significand hprec (Nat.le_add_right _ f) (by omega) e
    simp only [unpackUnits_succ, packUnits, hexcess, Nat.mul_div_cancel _ (Nat.two_pow_pos e), Nat.succ_mul]
    omega

theorem holds_unpackUnits (hprec : 0 < prec) (hf : f < 2 ^ (prec - 1)) (e : Nat) :
    Spec.Holds prec (unpackUnits prec e f) := by
  have htwice := two_mul_two_pow_pred hprec
  cases e with
  | zero => exact ⟨f, 0, by omega, by rw [unpackUnits_zero, Nat.pow_zero, Nat.mul_one]⟩
  | succ e => exact ⟨2 ^ (prec - 1) + f, e, by omega, rfl⟩

/-- Every number a format holds has an exponent field and a fraction. -/
theorem exists_unpackUnits_of_holds (hprec : 0 < prec) (h : Spec.Holds prec k) :
    ∃ e f, f < 2 ^ (prec - 1) ∧ k = unpackUnits prec e f := by
  have htwice := two_mul_two_pow_pred hprec
  have hdigits := units_div_lt hprec k
  have hk := Nat.div_mul_cancel ((holds_iff_dvd hprec).mp h)
  rcases Nat.lt_or_ge k (2 ^ (prec - 1)) with hlt | hge
  · exact ⟨0, k, hlt, rfl⟩
  · have hlow : 2 ^ (prec - 1) ≤ k / 2 ^ excessBits prec k := by
      rw [Nat.le_div_iff_mul_le (Nat.two_pow_pos _), ← Nat.pow_add]
      rcases Nat.eq_zero_or_pos (excessBits prec k) with hzero | hpos
      · rwa [hzero]
      · exact le_of_excessBits_pos hprec hpos
    refine ⟨excessBits prec k + 1, k / 2 ^ excessBits prec k - 2 ^ (prec - 1), by omega, ?_⟩
    rw [unpackUnits_succ, Nat.add_sub_cancel' hlow, hk]

theorem unpackUnits_lt (hprec : 0 < prec) (hf : f < 2 ^ (prec - 1)) (e : Nat) :
    unpackUnits prec e f < 2 ^ (prec - 1 + e) := by
  have htwice := two_mul_two_pow_pred hprec
  cases e with
  | zero => exact hf
  | succ e =>
    rw [unpackUnits_succ, show prec - 1 + (e + 1) = prec + e by omega, Nat.pow_add]
    exact Nat.mul_lt_mul_of_pos_right (by omega) (Nat.two_pow_pos e)

end Sys2Proof.Machine
end

section
/-! The patterns of binary32 and binary64 by their fields (92_eei_decisions.md D7): O26 and O27. -/

namespace Sys2Proof.Machine

/-! ## The exponents, which are irreducible, as the numbers they are -/

theorem unitExp64_eq : unitExp64 = 1074 := by rw [unitExp64]
theorem topExp64_eq : topExp64 = 2098 := by rw [topExp64]
theorem topExp32_eq : topExp32 = 277 := by rw [topExp32]
theorem unitExp32_eq : unitExp32 = 925 := by rw [unitExp32]

theorem one64_eq_two_pow : one64 = 2 ^ unitExp64 := rfl
theorem top64_eq_two_pow : top64 = 2 ^ topExp64 := rfl
theorem top32_eq_two_pow : top32 = 2 ^ topExp32 := rfl
theorem unit32_eq_two_pow : unit32 = 2 ^ unitExp32 := rfl

/-! ## A pattern as the number its fields give -/

theorem toNat_eq_sign_add {n : Nat} (b : BitVec (n + 1)) : b.toNat = b.msb.toNat * 2 ^ n + b.toNat % 2 ^ n := by
  have hlt := b.isLt
  rw [Nat.pow_succ] at hlt
  have hdiv := Nat.div_add_mod' b.toNat (2 ^ n)
  have hmsb : b.msb.toNat = b.toNat / 2 ^ n := by
    rw [BitVec.msb_eq_decide, Nat.add_sub_cancel]
    rcases Nat.lt_or_ge b.toNat (2 ^ n) with h | h
    · rw [decide_eq_false h.not_ge, Nat.div_eq_of_lt h, Bool.toNat_false]
    · rw [decide_eq_true h, Bool.toNat_true]
      exact (Nat.div_eq_of_lt_le (by omega) (by omega)).symm
  rw [hmsb, hdiv]

/-- The exponent field of a binary32. -/
def exponent32 (b : F32) : Nat := b.toNat / 2 ^ 23 % 2 ^ 8

/-- The fraction of a binary32. -/
def fraction32 (b : F32) : Nat := b.toNat % 2 ^ 23

theorem fraction32_lt (b : F32) : fraction32 b < 2 ^ (24 - 1) := Nat.mod_lt _ (by decide)

theorem low_eq_fields32 (b : F32) : b.toNat % 2 ^ 31 = exponent32 b * 2 ^ 23 + fraction32 b := by
  rw [exponent32, fraction32]
  omega

theorem ofF32_eq (b : F32) : F64.ofF32 b =
    if exponent32 b = 255 then (if fraction32 b = 0 then .inf b.msb else .nan)
    else .fin b.msb (unpackUnits 24 (exponent32 b) (fraction32 b) * unit32) := by
  have hexponent : (b.extractLsb' 23 8).toNat = exponent32 b := by
    rw [BitVec.extractLsb'_toNat, Nat.shiftRight_eq_div_pow, exponent32]
  have hfraction : (b.extractLsb' 0 23).toNat = fraction32 b := by
    rw [BitVec.extractLsb'_toNat, Nat.shiftRight_zero, fraction32]
  simp only [F64.ofF32, hexponent, hfraction]

theorem ofF32_of_exponent_lt {b : F32} (h : exponent32 b < 255) :
    F64.ofF32 b = .fin b.msb (unpackUnits 24 (exponent32 b) (fraction32 b) * unit32) := by
  rw [ofF32_eq, if_neg h.ne]

theorem exponent32_lt_iff (b : F32) : exponent32 b < 255 ↔ b.toNat % 2 ^ 31 < 0x7F800000 := by
  have hfraction := fraction32_lt b
  rw [low_eq_fields32]
  omega

theorem ofF32_eq_nan_iff (b : F32) : F64.ofF32 b = .nan ↔ isNaN b = true := by
  have hfraction := fraction32_lt b
  have hexponent : exponent32 b < 2 ^ 8 := Nat.mod_lt _ (by decide)
  rw [isNaN_iff, low_eq_fields32, ofF32_eq]
  split_ifs
  · exact iff_of_false (by simp) (by omega)
  · exact iff_of_true rfl (by omega)
  · exact iff_of_false (by simp) (by omega)

theorem toNat_ofBool_append {n : Nat} (neg : Bool) (x : BitVec n) :
    (BitVec.ofBool neg ++ x).toNat = neg.toNat * 2 ^ n + x.toNat := by
  rw [toNat_append_eq_mul_add, BitVec.toNat_ofBool]

theorem toNat_packF32 (neg : Bool) (units : Nat) : (packF32 neg units).toNat =
    neg.toNat * 2 ^ 31 + if units < top32 then packUnits 24 units else 0x7F800000 := by
  have hlow := packF32_low_le units
  rw [packF32, toNat_ofBool_append, BitVec.toNat_ofNat, Nat.mod_eq_of_lt (by omega)]

theorem msb_packF32 (neg : Bool) (units : Nat) : (packF32 neg units).msb = neg := by
  have hlow := packF32_low_le units
  rw [BitVec.msb_eq_decide, toNat_packF32]
  cases neg
  · rw [decide_eq_false]
    simp only [Bool.toNat_false]
    omega
  · rw [decide_eq_true]
    simp only [Bool.toNat_true]
    omega

/-- A number binary32 holds below its overflow bound enters binary64 again. -/
theorem ofF32_packF32 {units : Nat} (neg : Bool) (hholds : Spec.Holds 24 units) (htop : units < top32) :
    F64.ofF32 (packF32 neg units) = .fin neg (units * unit32) := by
  have hlow : (packF32 neg units).toNat % 2 ^ 31 = packUnits 24 units := by rw [toNat_packF32_mod, if_pos htop]
  have hexponent := (exponent32_lt_iff (packF32 neg units)).mpr (hlow ▸ packUnits24_lt htop)
  obtain ⟨e, f, hf, rfl⟩ := exists_unpackUnits_of_holds (by decide) hholds
  have hfraction := fraction32_lt (packF32 neg (unpackUnits 24 e f))
  rw [low_eq_fields32, packUnits_unpackUnits (by decide) hf] at hlow
  obtain ⟨he, hf⟩ : exponent32 (packF32 neg (unpackUnits 24 e f)) = e ∧
      fraction32 (packF32 neg (unpackUnits 24 e f)) = f := by omega
  rw [ofF32_of_exponent_lt hexponent, he, hf, msb_packF32]

/-- F32 of a number binary32 holds is its pattern. -/
theorem toF32_of_holds {units : Nat} (neg : Bool) (h : Spec.Holds 24 units) :
    (F64.fin neg (units * unit32)).toF32 = packF32 neg units := by
  rw [F64.toF32, roundUnits_exact unit32_pos ((holds_iff_dvd (by decide)).mp h)]

theorem packF32_of_top32_le {units : Nat} (neg : Bool) (h : top32 ≤ units) :
    packF32 neg units = if neg then 0xFF800000 else 0x7F800000 := by
  apply BitVec.eq_of_toNat_eq
  rw [toNat_packF32, if_neg h.not_gt]
  cases neg <;> rfl

theorem toF32_inf (neg : Bool) : (F64.inf neg).toF32 = if neg then 0xFF800000 else 0x7F800000 :=
  packF32_of_top32_le neg le_rfl

/-- The overflow bound of binary32 is where its exponent field would be 255. -/
theorem unpackUnits_lt_top32 {e f : Nat} (he : e < 255) (hf : f < 2 ^ (24 - 1)) : unpackUnits 24 e f < top32 := by
  have htop := topExp32_eq
  refine (unpackUnits_lt (by decide) hf e).trans_le ?_
  rw [top32_eq_two_pow]
  exact Nat.pow_le_pow_right (by decide) (by omega)

/-- A finite pattern is that of the number its fields stand for. -/
theorem packF32_fields {b : F32} (h : exponent32 b < 255) :
    packF32 b.msb (unpackUnits 24 (exponent32 b) (fraction32 b)) = b := by
  have hfraction := fraction32_lt b
  apply BitVec.eq_of_toNat_eq
  rw [toNat_packF32, if_pos (unpackUnits_lt_top32 h hfraction), packUnits_unpackUnits (by decide) hfraction,
    toNat_eq_sign_add b, low_eq_fields32]

theorem toF32_ofF32_of_not_nan {b : F32} (h : ¬isNaN b = true) : (F64.ofF32 b).toF32 = b := by
  have hfraction := fraction32_lt b
  rw [isNaN_iff, low_eq_fields32] at h
  rcases Nat.lt_or_ge (exponent32 b) 255 with hlt | hge
  · rw [ofF32_of_exponent_lt hlt, toF32_of_holds _ (holds_unpackUnits (by decide) hfraction _), packF32_fields hlt]
  · obtain ⟨he, hf⟩ : exponent32 b = 255 ∧ fraction32 b = 0 := by omega
    have hb := toNat_eq_sign_add b
    rw [ofF32_eq, if_pos he, if_pos hf, toF32_inf]
    apply BitVec.eq_of_toNat_eq
    rw [hb, low_eq_fields32, he, hf]
    cases b.msb <;> rfl

/-- The units of the statement are those of the fields, each unit of binary32 counted in units of binary64. -/
theorem unpackUnits_mul_unit32 (b : F32) :
    unpackUnits 24 (exponent32 b) (fraction32 b) * unit32 = Spec.unitsOf32 b := by
  show _ = if exponent32 b = 0 then fraction32 b * 2 ^ 925 else (2 ^ 23 + fraction32 b) * 2 ^ (exponent32 b + 924)
  rw [unit32_eq_two_pow, unitExp32_eq]
  cases exponent32 b with
  | zero => rw [unpackUnits_zero, if_pos rfl]
  | succ e => rw [unpackUnits_succ, if_neg (Nat.succ_ne_zero e), mul_assoc, ← Nat.pow_add]

/-- Settles O26: by the exponent field, which is 255 for the infinities and the NaNs alone. -/
theorem binary32EntersBinary64Exactly : Obligations.Binary32EntersBinary64Exactly := by
  refine ⟨fun b hb => ?_, ⟨by rfl, by rfl⟩, ofF32_eq_nan_iff, fun b => ?_⟩
  · rw [ofF32_of_exponent_lt ((exponent32_lt_iff b).mpr hb), unpackUnits_mul_unit32, BitVec.msb_eq_decide]
  · split_ifs with hnan
    · rw [(ofF32_eq_nan_iff b).mpr hnan, F64.toF32]
    · exact toF32_ofF32_of_not_nan hnan

/-! ## Binary64 -/

/-- The exponent field of a binary64. -/
def exponent64 (b : BitVec 64) : Nat := b.toNat / 2 ^ 52 % 2 ^ 11

/-- The fraction of a binary64. -/
def fraction64 (b : BitVec 64) : Nat := b.toNat % 2 ^ 52

theorem fraction64_lt (b : BitVec 64) : fraction64 b < 2 ^ (53 - 1) := Nat.mod_lt _ (by decide)

theorem low_eq_fields64 (b : BitVec 64) : b.toNat % 2 ^ 63 = exponent64 b * 2 ^ 52 + fraction64 b := by
  rw [exponent64, fraction64]
  omega

theorem ofBits_eq (b : BitVec 64) : F64.ofBits b =
    if exponent64 b = 2047 then (if fraction64 b = 0 then .inf b.msb else .nan)
    else .fin b.msb (unpackUnits 53 (exponent64 b) (fraction64 b)) := by
  have hexponent : (b.extractLsb' 52 11).toNat = exponent64 b := by
    rw [BitVec.extractLsb'_toNat, Nat.shiftRight_eq_div_pow, exponent64]
  have hfraction : (b.extractLsb' 0 52).toNat = fraction64 b := by
    rw [BitVec.extractLsb'_toNat, Nat.shiftRight_zero, fraction64]
  simp only [F64.ofBits, hexponent, hfraction]

theorem toNat_toBits_inf (neg : Bool) : (F64.inf neg).toBits.toNat = neg.toNat * 2 ^ 63 + 2047 * 2 ^ 52 :=
  toNat_ofBool_append neg _

theorem toNat_toBits_fin {e f : Nat} (neg : Bool) (he : e < 2 ^ 11) (hf : f < 2 ^ (53 - 1)) :
    (F64.fin neg (unpackUnits 53 e f)).toBits.toNat = neg.toNat * 2 ^ 63 + (e * 2 ^ 52 + f) := by
  rw [F64.toBits, toNat_ofBool_append, BitVec.toNat_ofNat, packUnits_unpackUnits (by decide) hf,
    Nat.mod_eq_of_lt (by omega)]

/-- Settles O27: a pattern that is no NaN is an infinity or finite, and its value packs the same fields. -/
theorem binary64PatternsRoundTrip : Obligations.Binary64PatternsRoundTrip := by
  intro b hnan
  have hexponent : exponent64 b < 2 ^ 11 := Nat.mod_lt _ (by decide)
  apply BitVec.eq_of_toNat_eq
  rw [toNat_eq_sign_add b, low_eq_fields64]
  rw [ofBits_eq] at hnan ⊢
  split_ifs at hnan ⊢ with he hf
  · rw [toNat_toBits_inf, he, hf]
    omega
  · exact absurd rfl hnan
  · exact toNat_toBits_fin _ hexponent (fraction64_lt b)

end Sys2Proof.Machine
end

section
/-! HUM_OUT (45_humidity.md R172, R173): a word of at most 17 bits is exact in both formats: O24. -/

namespace Sys2Proof.Machine

/-- F64 of a quotient that is a number of units binary64 holds. -/
theorem ofRat_of_holds {num den k : Nat} (neg : Bool) (hden : 0 < den) (hk : num * one64 = k * den)
    (hholds : Spec.Holds 53 k) (htop : k < top64) : F64.ofRat neg num den = .fin neg k := by
  have hround : roundUnits 53 (k * den) den = k := roundUnits_exact hden ((holds_iff_dvd (by decide)).mp hholds)
  simp only [F64.ofRat, F64.round, hk, hround, if_pos htop]

/-- A significand of `prec` digits stays below a bound that lies as many digits above its exponent. -/
theorem mul_two_pow_lt {m prec e top : Nat} (hm : m < 2 ^ prec) (htop : prec + e ≤ top) : m * 2 ^ e < 2 ^ top :=
  calc m * 2 ^ e < 2 ^ prec * 2 ^ e := Nat.mul_lt_mul_of_pos_right hm (Nat.two_pow_pos e)
    _ = 2 ^ (prec + e) := (Nat.pow_add 2 prec e).symm
    _ ≤ 2 ^ top := Nat.pow_le_pow_right (by decide) htop

/-- 1 / 1024 is 2^139 units of binary32. -/
theorem mul_one64_eq (q : Nat) : q * one64 = q * 2 ^ 139 * unit32 * 1024 := by
  have hone : unitExp64 = 139 + unitExp32 + 10 := by rw [unitExp64_eq, unitExp32_eq]
  rw [one64_eq_two_pow, hone, unit32_eq_two_pow, Nat.pow_add, Nat.pow_add, ← mul_assoc, ← mul_assoc]

/-- HUM_OUT of HQ10 at most 100 %: both roundings are exact. -/
theorem humOut_eq_packF32 {q : Word32} (hq : q.toNat ≤ 102400) : humOut q = packF32 false (q.toNat * 2 ^ 139) := by
  have hunit := unitExp32_eq
  have htop := topExp64_eq
  have hpow : q.toNat * 2 ^ 139 * unit32 = q.toNat * 2 ^ (139 + unitExp32) := by
    rw [unit32_eq_two_pow, mul_assoc, ← Nat.pow_add]
  have hholds64 : Spec.Holds 53 (q.toNat * 2 ^ 139 * unit32) := ⟨q.toNat, 139 + unitExp32, by omega, hpow⟩
  have hlt : q.toNat * 2 ^ 139 * unit32 < top64 := by
    rw [hpow, top64_eq_two_pow]
    exact mul_two_pow_lt (prec := 17) (by omega) (by omega)
  rw [humOut, ofRat_of_holds false (by decide) (mul_one64_eq q.toNat) hholds64 hlt,
    toF32_of_holds false ⟨q.toNat, 139, by omega, rfl⟩]

theorem ofF32_humOut {q : Word32} (hq : q.toNat ≤ 102400) :
    F64.ofF32 (humOut q) = .fin false (q.toNat * 2 ^ 139 * unit32) := by
  have htop := topExp32_eq
  have hlt : q.toNat * 2 ^ 139 < top32 := by
    rw [top32_eq_two_pow]
    exact mul_two_pow_lt (prec := 17) (by omega) (by omega)
  rw [humOut_eq_packF32 hq, ofF32_packF32 false ⟨q.toNat, 139, by omega, rfl⟩ hlt]

/-- Settles O24: the clamp bounds HQ10, and the value of HUM_OUT is a whole number of units; its two ends are
evaluated. -/
theorem humidityIsExactAndAtMostHundred : Obligations.HumidityIsExactAndAtMostHundred := by
  have hends : humOut 0 = 0 ∧ humOut 102400 = 0x42C80000 := by decide +kernel
  exact ⟨toNat_compH_le, fun q hq => ⟨⟨_, ofF32_humOut hq, (mul_one64_eq q.toNat).symm⟩, isNaN_humOut q⟩, hends⟩

end Sys2Proof.Machine
end

section
/-! Overflow, and the operations as the exact result rounded once (00_scope.md R12): O60. -/

namespace Sys2Proof.Machine

/-! ## Overflow -/

variable {prec top num den k : Nat}

/-- All digits set, below 2^top. -/
theorem two_pow_sub_eq (htop : prec ≤ top) : 2 ^ top - 2 ^ (top - prec) = (2 ^ prec - 1) * 2 ^ (top - prec) := by
  rw [Nat.sub_mul, ← Nat.pow_add, Nat.add_sub_cancel' htop, Nat.one_mul]

theorem holds_max (htop : prec ≤ top) : Spec.Holds prec (2 ^ top - 2 ^ (top - prec)) :=
  ⟨2 ^ prec - 1, top - prec, Nat.sub_one_lt (Nat.two_pow_pos _).ne', two_pow_sub_eq htop⟩

/-- The greatest number of `prec` digits below 2^top has all its digits set. -/
theorem le_max_of_holds (hprec : 0 < prec) (htop : prec ≤ top) (hk : Spec.Holds prec k) (hlt : k < 2 ^ top) :
    k ≤ 2 ^ top - 2 ^ (top - prec) := by
  have hexcess : excessBits prec k ≤ top - prec :=
    (excessBits_le_iff hprec k _).mpr (by rwa [Nat.add_sub_cancel' htop])
  have hdigits := units_div_lt hprec k
  calc k = k / 2 ^ excessBits prec k * 2 ^ excessBits prec k :=
        (Nat.div_mul_cancel ((holds_iff_dvd hprec).mp hk)).symm
    _ ≤ (2 ^ prec - 1) * 2 ^ (top - prec) :=
        Nat.mul_le_mul (by omega) (Nat.pow_le_pow_right (by decide) hexcess)
    _ = 2 ^ top - 2 ^ (top - prec) := (two_pow_sub_eq htop).symm

theorem not_lastDigitEven_max (hprec : 0 < prec) (htop : prec ≤ top) :
    ¬Spec.LastDigitEven prec (2 ^ top - 2 ^ (top - prec)) := by
  have htwice := two_mul_two_pow_pred hprec
  have hpos := Nat.two_pow_pos (prec - 1)
  show ¬(_ / 2 ^ excessBits prec _ % 2 = 0)
  rw [two_pow_sub_eq htop, excessBits_significand hprec (by omega) (by omega), Nat.mul_div_cancel _ (Nat.two_pow_pos _)]
  omega

/-- Half a last digit below 2^top is where rounding goes up to 2^top, the tie too: the greatest number below it is
odd. -/
theorem roundUnits_lt_two_pow_iff (hprec : 2 ≤ prec) (htop : prec < top) (hden : 0 < den) (num : Nat) :
    roundUnits prec num den < 2 ^ top ↔ num < (2 ^ top - 2 ^ (top - prec - 1)) * den := by
  obtain ⟨hholds, hnear⟩ := roundingIsNearestTiesToEven prec num den hprec hden
  have htopHolds : Spec.Holds prec (2 ^ top) := ⟨1, top, Nat.one_lt_two_pow (by omega), (Nat.one_mul _).symm⟩
  have hmaxHolds : Spec.Holds prec (2 ^ top - 2 ^ (top - prec)) := holds_max htop.le
  have hmax : roundUnits prec num den < 2 ^ top → _ := le_max_of_holds (by omega) htop.le hholds
  have hodd : ¬Spec.LastDigitEven prec (2 ^ top - 2 ^ (top - prec)) := not_lastDigitEven_max (by omega) htop.le
  have hdigit : 2 ^ (top - prec) = 2 * 2 ^ (top - prec - 1) := (two_mul_two_pow_pred (by omega)).symm
  have hdigitLe : 2 ^ (top - prec) ≤ 2 ^ top := Nat.pow_le_pow_right (by decide) (by omega)
  have hhalf : 0 < 2 ^ (top - prec - 1) * den := Nat.mul_pos (Nat.two_pow_pos _) hden
  have hbound : (2 ^ top - 2 ^ (top - prec)) * den + 2 * (2 ^ (top - prec - 1) * den) = 2 ^ top * den := by
    rw [← mul_assoc, ← hdigit, ← Nat.add_mul, Nat.sub_add_cancel hdigitLe]
  generalize roundUnits prec num den = r at *
  rw [Nat.sub_mul]
  constructor
  · intro hlt
    by_contra hge
    obtain ⟨hle, htie⟩ := hnear _ htopHolds
    have hr := Nat.mul_le_mul_right den (hmax hlt)
    rw [dist_of_le (by omega)] at hle htie
    rcases Nat.le_total (2 ^ top * den) num with hover | hunder
    · rw [dist_of_le hover] at hle
      omega
    · rw [dist_of_ge hunder] at hle htie
      have heq : r = 2 ^ top - 2 ^ (top - prec) := Nat.eq_of_mul_eq_mul_right hden (by omega)
      exact hodd (heq ▸ htie hlt.ne' (by omega))
  · intro hlt
    by_contra hge
    have hle := (hnear _ hmaxHolds).1
    have hr := Nat.mul_le_mul_right den (Nat.le_of_not_lt hge)
    rw [dist_of_ge (by omega)] at hle
    rcases Nat.le_total num ((2 ^ top - 2 ^ (top - prec)) * den) with hunder | hover
    · rw [dist_of_ge hunder] at hle
      omega
    · rw [dist_of_le hover] at hle
      omega

theorem overflow64_eq : Spec.overflow64 = 2 ^ topExp64 - 2 ^ (topExp64 - 53 - 1) := by
  have hhalf : topExp64 - 53 - 1 = 2044 := by rw [topExp64_eq]
  rw [hhalf, topExp64_eq]
  rfl

theorem overflow32_eq : Spec.overflow32 = (2 ^ topExp32 - 2 ^ (topExp32 - 24 - 1)) * 2 ^ unitExp32 := by
  have hhalf : topExp32 - 24 - 1 = 252 := by rw [topExp32_eq]
  rw [hhalf, topExp32_eq, unitExp32_eq]
  rfl

theorem round_eq_ite (neg : Bool) (hden : 0 < den) (num : Nat) : F64.round neg num den =
    if num < Spec.overflow64 * den then .fin neg (roundUnits 53 num den) else .inf neg := by
  have htop := topExp64_eq
  have hlt : roundUnits 53 num den < top64 ↔ num < Spec.overflow64 * den := by
    rw [top64_eq_two_pow, overflow64_eq]
    exact roundUnits_lt_two_pow_iff (by decide) (by omega) hden num
  simp only [F64.round, hlt]

theorem roundUnits_lt_top32_iff (k : Nat) : roundUnits 24 k unit32 < top32 ↔ k < Spec.overflow32 := by
  have htop := topExp32_eq
  rw [top32_eq_two_pow, overflow32_eq, ← unit32_eq_two_pow]
  exact roundUnits_lt_two_pow_iff (by decide) (by omega) unit32_pos k

theorem ofF32_toF32_of_lt (neg : Bool) (h : k < Spec.overflow32) :
    F64.ofF32 (F64.fin neg k).toF32 = .fin neg (roundUnits 24 k unit32 * unit32) :=
  ofF32_packF32 neg (holds_roundUnits (by decide) k unit32) ((roundUnits_lt_top32_iff k).mpr h)

theorem toF32_of_overflow32_le (neg : Bool) (h : Spec.overflow32 ≤ k) :
    (F64.fin neg k).toF32 = if neg then 0xFF800000 else 0x7F800000 :=
  packF32_of_top32_le neg (Nat.le_of_not_lt (mt (roundUnits_lt_top32_iff k).mp h.not_gt))

/-! ## The operations -/

theorem round_zero (neg : Bool) (hden : 0 < den) : F64.round neg 0 den = .fin neg 0 := by
  have hround : roundUnits 53 0 den = 0 := by
    have hexact := roundUnits_exact (prec := 53) hden (dvd_zero _)
    rwa [Nat.zero_mul] at hexact
  simp only [F64.round, hround, if_pos top64_pos]

theorem cast_one64 : (one64 : ℚ) = 2 ^ 1074 := by
  rw [one64_eq_two_pow, unitExp64_eq, Nat.cast_pow, Nat.cast_ofNat]

theorem cast_signedUnits (neg : Bool) (k : Nat) : (signedUnits neg k : ℚ) = (if neg then -1 else 1) * k := by
  cases neg <;> simp [signedUnits]

theorem cast_eq_sign_mul_natAbs (i : Int) : (i : ℚ) = (if decide (i < 0) then -1 else 1) * i.natAbs := by
  rw [← cast_signedUnits]
  congr 1
  rcases lt_or_ge i 0 with h | h
  · rw [decide_eq_true h, signedUnits, if_pos rfl]
    omega
  · rw [decide_eq_false h.not_gt, signedUnits, if_neg Bool.false_ne_true]
    omega

theorem isF64_add (a b : Bool) (j k : Nat) :
    Spec.IsF64 (Spec.value a j + Spec.value b k) ((F64.fin a j).add (.fin b k)) := by
  have hvalue : Spec.value a j + Spec.value b k = ((signedUnits a j + signedUnits b k : Int) : ℚ) / 2 ^ 1074 := by
    rw [Spec.value, Spec.value, ← add_div, Int.cast_add]
  rw [hvalue, F64.add]
  generalize signedUnits a j + signedUnits b k = sum
  split_ifs with hsum
  · exact ⟨a && b, 0, 1, one_pos, by simp [hsum], (round_zero _ one_pos).symm⟩
  · exact ⟨decide (sum < 0), sum.natAbs, 1, one_pos, by rw [cast_eq_sign_mul_natAbs sum, Nat.cast_one, div_one], rfl⟩

theorem value_not (b : Bool) (k : Nat) : Spec.value (!b) k = -Spec.value b k := by
  cases b <;> simp [Spec.value, signedUnits, neg_div]

theorem isF64_sub (a b : Bool) (j k : Nat) :
    Spec.IsF64 (Spec.value a j - Spec.value b k) ((F64.fin a j).sub (.fin b k)) := by
  rw [sub_eq_add_neg, ← value_not]
  exact isF64_add a (!b) j k

/-- The sign of a product or quotient is the exclusive or of the signs. -/
theorem sign_xor (a b : Bool) : (if a ^^ b then (-1 : ℚ) else 1) = (if a then -1 else 1) * (if b then -1 else 1) := by
  cases a <;> cases b <;> norm_num

theorem isF64_mul (a b : Bool) (j k : Nat) :
    Spec.IsF64 (Spec.value a j * Spec.value b k) ((F64.fin a j).mul (.fin b k)) := by
  refine ⟨a ^^ b, j * k, one64, one64_pos, ?_, rfl⟩
  rw [Spec.value, Spec.value, cast_signedUnits, cast_signedUnits, sign_xor, Nat.cast_mul, cast_one64]
  generalize (2 : ℚ) ^ 1074 = unit
  ring

theorem isF64_div (a b : Bool) (j : Nat) (hk : k ≠ 0) :
    Spec.IsF64 (Spec.value a j / Spec.value b k) ((F64.fin a j).div (.fin b k)) := by
  have hk' : (k : ℚ) ≠ 0 := Nat.cast_ne_zero.mpr hk
  have hsign : (if b then (-1 : ℚ) else 1) ≠ 0 ∧ (if b then (-1 : ℚ) else 1) ^ 2 = 1 := by cases b <;> norm_num
  have hunit : (2 : ℚ) ^ 1074 ≠ 0 := pow_ne_zero _ two_ne_zero
  refine ⟨a ^^ b, j * one64, k, Nat.pos_of_ne_zero hk, ?_, if_neg hk⟩
  rw [Spec.value, Spec.value, cast_signedUnits, cast_signedUnits, sign_xor, Nat.cast_mul, cast_one64]
  generalize (2 : ℚ) ^ 1074 = unit at *
  obtain ⟨hsign, hsquare⟩ := hsign
  generalize (if b then (-1 : ℚ) else 1) = sign at *
  field_simp
  rw [hsquare, mul_one]

theorem isF64_ofRat (neg : Bool) (num : Nat) (hden : 0 < den) :
    Spec.IsF64 ((if neg then -1 else 1) * ((num : ℚ) / den)) (F64.ofRat neg num den) := by
  have hunit : (2 : ℚ) ^ 1074 ≠ 0 := pow_ne_zero _ two_ne_zero
  refine ⟨neg, num * one64, den, hden, ?_, rfl⟩
  rw [Nat.cast_mul, cast_one64, mul_div_right_comm (num : ℚ), ← mul_assoc, mul_div_cancel_right₀ _ hunit]

/-- Settles O60: each operation is `F64.round` of the exact quotient, and both bounds are those of
`roundUnits_lt_two_pow_iff`. -/
theorem floatOperationsRoundTheExactResult : Obligations.FloatOperationsRoundTheExactResult := by
  have hunit : unit32 = 2 ^ 925 := by rw [unit32_eq_two_pow, unitExp32_eq]
  refine ⟨fun a b j k => ⟨isF64_add a b j k, isF64_sub a b j k, isF64_mul a b j k, isF64_div a b j⟩,
    fun neg num den => isF64_ofRat neg num, fun neg num den hden => round_eq_ite neg hden num, fun neg k => ⟨?_, ?_⟩⟩
  · rw [← hunit]
    exact ofF32_toF32_of_lt neg
  · exact toF32_of_overflow32_le neg

end Sys2Proof.Machine
end

section
/-! The corners of ALTITUDE (46_derived.md R190; log 12): a product or quotient with a positive constant keeps a zero,
an infinity and a sign, and so the whole expression does: O32. -/

namespace Sys2Proof.Machine

/-- A value that is no NaN, by its sign. -/
def F64.HasSign (neg : Bool) (x : F64) : Prop := x = .inf neg ∨ ∃ k, x = .fin neg k

/-- A finite value above 0, as each constant of R190 is. -/
def F64.Positive (x : F64) : Prop := ∃ k, 0 < k ∧ x = .fin false k

variable {neg : Bool} {x c : F64}

theorem hasSign_round (neg : Bool) (num den : Nat) : (F64.round neg num den).HasSign neg := by
  obtain h | h := F64.round_eq neg num den
  · exact .inl h
  · exact .inr ⟨_, h⟩

theorem positive_ofRat {num den : Nat} (h : (F64.ofRat false num den).finiteNonzero = true) :
    (F64.ofRat false num den).Positive := by
  obtain hround | hround := F64.round_eq false (num * one64) den
  · rw [F64.ofRat, hround] at h
    cases h
  · rw [F64.ofRat, hround] at h ⊢
    exact ⟨_, of_decide_eq_true h, rfl⟩

/-! ## One operation with a positive constant -/

theorem F64.mul_comm (x y : F64) : x.mul y = y.mul x := by
  cases x <;> cases y <;> simp [F64.mul, Bool.xor_comm, Nat.mul_comm]

theorem hasSign_mul (hc : c.Positive) (hx : x.HasSign neg) : (x.mul c).HasSign neg := by
  obtain ⟨k, hk, rfl⟩ := hc
  obtain rfl | ⟨j, rfl⟩ := hx
  · exact .inl (by simp [F64.mul, hk.ne'])
  · rw [F64.mul, Bool.xor_false]
    exact hasSign_round _ _ _

theorem hasSign_div (hc : c.Positive) (hx : x.HasSign neg) : (x.div c).HasSign neg := by
  obtain ⟨k, hk, rfl⟩ := hc
  obtain rfl | ⟨j, rfl⟩ := hx
  · exact .inl (by simp [F64.div])
  · rw [F64.div, if_neg hk.ne', Bool.xor_false]
    exact hasSign_round _ _ _

theorem inf_mul (hc : c.Positive) (neg : Bool) : (F64.inf neg).mul c = .inf neg := by
  obtain ⟨k, hk, rfl⟩ := hc
  simp [F64.mul, hk.ne']

theorem inf_div (hc : c.Positive) (neg : Bool) : (F64.inf neg).div c = .inf neg := by
  obtain ⟨k, hk, rfl⟩ := hc
  simp [F64.div]

theorem zero_mul (hc : c.Positive) (neg : Bool) : (F64.fin neg 0).mul c = .fin neg 0 := by
  obtain ⟨k, hk, rfl⟩ := hc
  rw [F64.mul, Nat.zero_mul, Bool.xor_false, round_zero _ one64_pos]

theorem zero_div (hc : c.Positive) (neg : Bool) : (F64.fin neg 0).div c = .fin neg 0 := by
  obtain ⟨k, hk, rfl⟩ := hc
  rw [F64.div, if_neg hk.ne', Nat.zero_mul, Bool.xor_false, round_zero _ hk]

/-! ## The expression of R190 over the difference of the pressures -/

/-- R190 from the difference of the pressures on. -/
def altitudeOfDifference (d : F64) (metric : Bool) : F64 :=
  let unscaled := ((F64.ofNat 1000).mul d).div paPerInHg
  if metric then unscaled.mul (dec 3048 4) else unscaled

theorem altitude_eq_ofDifference {p slp : F32} (h : ¬(isNaN p = true ∨ isNaN slp = true)) (metric : Bool) :
    altitude p slp metric =
      (altitudeOfDifference ((F64.ofF32 slp).sub (F64.ofF32 p)) metric).toF32 := by
  cases metric
  · rw [altitude_nonmetric h]
    rfl
  · rw [altitude_metric h]
    rfl

theorem positive_thousand : (F64.ofNat 1000).Positive := positive_ofRat ofNat1000_finiteNonzero

theorem positive_paPerInHg : paPerInHg.Positive := positive_ofRat paPerInHg_finiteNonzero

theorem positive_metresPerFoot : (dec 3048 4).Positive := positive_ofRat metresPerFoot_finiteNonzero

/-- What every product and quotient with a positive constant keeps, the expression keeps. -/
theorem altitudeOfDifference_keeps {P : F64 → Prop} (hmul : ∀ {x c : F64}, c.Positive → P x → P (x.mul c))
    (hdiv : ∀ {x c : F64}, c.Positive → P x → P (x.div c)) {d : F64} (hd : P d) (metric : Bool) :
    P (altitudeOfDifference d metric) := by
  have hunscaled : P (((F64.ofNat 1000).mul d).div paPerInHg) := by
    rw [F64.mul_comm]
    exact hdiv positive_paPerInHg (hmul positive_thousand hd)
  cases metric
  · exact hunscaled
  · exact hmul positive_metresPerFoot hunscaled

theorem hasSign_altitudeOfDifference {d : F64} (hd : d.HasSign neg) (metric : Bool) :
    (altitudeOfDifference d metric).HasSign neg :=
  altitudeOfDifference_keeps hasSign_mul hasSign_div hd metric

theorem altitudeOfDifference_inf (neg metric : Bool) : altitudeOfDifference (.inf neg) metric = .inf neg :=
  altitudeOfDifference_keeps (P := (· = .inf neg)) (by rintro _ c hc rfl; exact inf_mul hc neg)
    (by rintro _ c hc rfl; exact inf_div hc neg) rfl metric

theorem altitudeOfDifference_zero (neg metric : Bool) : altitudeOfDifference (.fin neg 0) metric = .fin neg 0 :=
  altitudeOfDifference_keeps (P := (· = .fin neg 0)) (by rintro _ c hc rfl; exact zero_mul hc neg)
    (by rintro _ c hc rfl; exact zero_div hc neg) rfl metric

/-! ## The difference of the pressures -/

theorem signedUnits_not (b : Bool) (k : Nat) : signedUnits (!b) k = -signedUnits b k := by
  cases b <;> simp [signedUnits]

theorem fin_sub_self (a : Bool) (j : Nat) : (F64.fin a j).sub (.fin a j) = .fin false 0 := by
  rw [F64.sub, F64.neg, F64.add, signedUnits_not, if_pos (Int.add_right_neg _), Bool.and_not_self]

theorem hasSign_sub (a b : Bool) (j k : Nat) : ∃ neg, ((F64.fin b k).sub (.fin a j)).HasSign neg := by
  rw [F64.sub, F64.neg, F64.add]
  split_ifs
  · exact ⟨_, .inr ⟨0, rfl⟩⟩
  · exact ⟨_, hasSign_round _ _ _⟩

theorem hasSign_sub_of_lt {a b : Bool} {j k : Nat} (h : signedUnits b k < signedUnits a j) :
    ((F64.fin b k).sub (.fin a j)).HasSign true := by
  have hsum : signedUnits b k + signedUnits (!a) j < 0 := by rw [signedUnits_not]; omega
  rw [F64.sub, F64.neg, F64.add, if_neg hsum.ne, decide_eq_true hsum]
  exact hasSign_round _ _ _

/-! ## The patterns -/

theorem isNaN_of_finite {b : F32} (h : Spec.Finite32 b) : isNaN b = false := by
  rw [Bool.eq_false_iff, ne_eq, isNaN_iff]
  exact h.not_gt

theorem ofF32_of_finite {b : F32} (h : Spec.Finite32 b) : ∃ neg k, F64.ofF32 b = .fin neg k :=
  ⟨_, _, ofF32_of_exponent_lt ((exponent32_lt_iff b).mpr h)⟩

theorem isNaN_toF32_of_hasSign (h : x.HasSign neg) : isNaN x.toF32 = false := by
  rw [Bool.eq_false_iff, ne_eq, isNaN_toF32]
  obtain rfl | ⟨k, rfl⟩ := h
  · nofun
  · nofun

theorem msb_toF32_of_hasSign (h : x.HasSign neg) : x.toF32.msb = neg := by
  obtain rfl | ⟨k, rfl⟩ := h
  · exact msb_packF32 neg top32
  · exact msb_packF32 neg _

theorem altitude_of_finite {p slp : F32} (hp : Spec.Finite32 p) (hslp : isNaN slp = false) (metric : Bool) :
    altitude p slp metric = (altitudeOfDifference ((F64.ofF32 slp).sub (F64.ofF32 p)) metric).toF32 :=
  altitude_eq_ofDifference (by simp [isNaN_of_finite hp, hslp]) metric

theorem altitude_self {p : F32} (hp : Spec.Finite32 p) (metric : Bool) : altitude p p metric = 0 := by
  obtain ⟨a, j, hpa⟩ := ofF32_of_finite hp
  rw [altitude_of_finite hp (isNaN_of_finite hp), hpa, fin_sub_self, altitudeOfDifference_zero]
  decide +kernel

theorem altitude_inf {p slp : F32} (hp : Spec.Finite32 p) (hslp : F64.ofF32 slp = .inf neg) (metric : Bool) :
    altitude p slp metric = (F64.inf neg).toF32 := by
  obtain ⟨a, j, hpa⟩ := ofF32_of_finite hp
  have hnan : isNaN slp = false := by
    rw [Bool.eq_false_iff, ne_eq, ← ofF32_eq_nan_iff, hslp]
    nofun
  rw [altitude_of_finite hp hnan, hslp, hpa]
  exact congrArg F64.toF32 (altitudeOfDifference_inf neg metric)

/-- Settles O32: the difference is a zero, an infinity, or a number of a known sign, and the expression keeps which. -/
theorem altitudeCorners : Obligations.AltitudeCorners := by
  intro metric
  refine ⟨fun p hp => altitude_self hp metric, fun p slp hp hslp => ⟨?_, ?_⟩, fun p hp => ⟨?_, ?_⟩,
    fun p slp hnan => altitude_of_isNaN hnan metric⟩
  · obtain ⟨a, j, hpa⟩ := ofF32_of_finite hp
    obtain ⟨b, k, hslpb⟩ := ofF32_of_finite hslp
    obtain ⟨neg, hsign⟩ := hasSign_sub a b j k
    rw [altitude_of_finite hp (isNaN_of_finite hslp), hpa, hslpb]
    exact isNaN_toF32_of_hasSign (hasSign_altitudeOfDifference hsign metric)
  · intro a j b k hpa hslpb hlt
    rw [altitude_of_finite hp (isNaN_of_finite hslp), hpa, hslpb]
    exact msb_toF32_of_hasSign (hasSign_altitudeOfDifference (hasSign_sub_of_lt hlt) metric)
  · rw [altitude_inf hp (neg := false) (by rfl), toF32_inf, if_neg Bool.false_ne_true]
  · rw [altitude_inf hp (neg := true) (by rfl), toF32_inf, if_pos rfl]

end Sys2Proof.Machine
end
